-- ==== Sys2Proof/Word.lean ====
section
/-! DEFINITION. The words of the CHIP-8 core: bytes, 16-bit words, the 12-bit address immediate and
register numbers (spec 00_scope.md R8, 10_state.md R21, 30_encoding.md R71). -/

namespace Sys2Proof

/-- An 8-bit value: a register, a timer, a memory byte, the immediate NN. -/
abbrev Byte := BitVec 8

/-- A 16-bit value: an instruction word, I, PC, a stack entry. -/
abbrev Word := BitVec 16

/-- The 12-bit address immediate NNN (R71). -/
abbrev Addr12 := BitVec 12

/-- A register number: a 4-bit field, so always 0..15 (R21). -/
abbrev Reg := Fin 16

/-- `zext_16`: the same number at 16 bits (R8). -/
abbrev zext16 {n : Nat} (a : BitVec n) : Word := a.setWidth 16

end Sys2Proof
end

