-- ==== Sys2Proof/Syntax.lean ====
section
/-! DEFINITION. The 34 instructions of the opcode map (spec 30_encoding.md R73), one constructor a row.
Operands are the fields of R71 at their own widths, so every term is an instruction some word encodes. -/

namespace Sys2Proof

/-- The instructions, in the order of R73. `x`, `y` are register numbers, `n` the sprite height,
`nn` the byte immediate, `nnn` the address immediate. -/
inductive Instr where
  /-- 00E0 CLS (R180). -/
  | cls
  /-- 00EE RET (R110). -/
  | ret
  /-- 1NNN JP addr (R111). -/
  | jp (nnn : Addr12)
  /-- 2NNN CALL addr (R112). -/
  | call (nnn : Addr12)
  /-- 3XNN SE Vx, byte (R113). -/
  | seImm (x : Reg) (nn : Byte)
  /-- 4XNN SNE Vx, byte (R114). -/
  | sneImm (x : Reg) (nn : Byte)
  /-- 5XY0 SE Vx, Vy (R115). -/
  | seReg (x y : Reg)
  /-- 6XNN LD Vx, byte (R132). -/
  | ldImm (x : Reg) (nn : Byte)
  /-- 7XNN ADD Vx, byte (R133). -/
  | addImm (x : Reg) (nn : Byte)
  /-- 8XY0 LD Vx, Vy (R134). -/
  | ldReg (x y : Reg)
  /-- 8XY1 OR Vx, Vy (R135). -/
  | orReg (x y : Reg)
  /-- 8XY2 AND Vx, Vy (R136). -/
  | andReg (x y : Reg)
  /-- 8XY3 XOR Vx, Vy (R137). -/
  | xorReg (x y : Reg)
  /-- 8XY4 ADD Vx, Vy (R138). -/
  | addReg (x y : Reg)
  /-- 8XY5 SUB Vx, Vy (R139). -/
  | sub (x y : Reg)
  /-- 8XY6 SHR Vx, Vy (R140). -/
  | shr (x y : Reg)
  /-- 8XY7 SUBN Vx, Vy (R141). -/
  | subn (x y : Reg)
  /-- 8XYE SHL Vx, Vy (R142). -/
  | shl (x y : Reg)
  /-- 9XY0 SNE Vx, Vy (R116). -/
  | sneReg (x y : Reg)
  /-- ANNN LD I, addr (R160). -/
  | ldI (nnn : Addr12)
  /-- BNNN JP V0, addr (R117). -/
  | jpV0 (nnn : Addr12)
  /-- CXNN RND Vx, byte (R143). -/
  | rnd (x : Reg) (nn : Byte)
  /-- DXYN DRW Vx, Vy, nibble (R185). -/
  | drw (x y : Reg) (n : Fin 16)
  /-- EX9E SKP Vx (R201). -/
  | skp (x : Reg)
  /-- EXA1 SKNP Vx (R202). -/
  | sknp (x : Reg)
  /-- FX07 LD Vx, DT (R205). -/
  | ldVxDt (x : Reg)
  /-- FX0A LD Vx, K (R206). -/
  | ldVxK (x : Reg)
  /-- FX15 LD DT, Vx (R210). -/
  | ldDtVx (x : Reg)
  /-- FX18 LD ST, Vx (R211). -/
  | ldStVx (x : Reg)
  /-- FX1E ADD I, Vx (R161). -/
  | addI (x : Reg)
  /-- FX29 LD F, Vx (R162). -/
  | ldF (x : Reg)
  /-- FX33 LD B, Vx (R163). -/
  | ldB (x : Reg)
  /-- FX55 LD [I], Vx (R164). -/
  | stRegs (x : Reg)
  /-- FX65 LD Vx, [I] (R165). -/
  | ldRegs (x : Reg)
deriving DecidableEq, Repr

end Sys2Proof
end

