-- ==== Sys2Proof/Decode.lean ====
section
/-! DEFINITION. The decoder (spec 30_encoding.md R70 to R80), total on every word and on any bytes, and
after it the encoder, written from the same opcode map (R73). -/

namespace Sys2Proof

/-- `op[15:12]`, the instruction family (R71). -/
def opGroup (w : Word) : BitVec 4 := w.extractLsb' 12 4

/-- `op[11:8]` as bits (R71). -/
def opX (w : Word) : BitVec 4 := w.extractLsb' 8 4

/-- `op[7:4]` as bits (R71). -/
def opY (w : Word) : BitVec 4 := w.extractLsb' 4 4

/-- `op[3:0]` as bits (R71). -/
def opN (w : Word) : BitVec 4 := w.extractLsb' 0 4

/-- `op[7:0]`, the byte immediate (R71). -/
def opNN (w : Word) : Byte := w.extractLsb' 0 8

/-- `op[11:0]`, the address immediate (R71). -/
def opNNN (w : Word) : Addr12 := w.extractLsb' 0 12

/-- A 4-bit field as a number 0..15: a register number or a sprite height (R72). -/
def nibbleIndex (b : BitVec 4) : Fin 16 := ⟨b.toNat, b.isLt⟩

/-- Group 0x0 decodes on the whole word (R75). -/
def decodeGroup0 (w : Word) : Option Instr :=
  if w = 0x00E0#16 then some .cls
  else if w = 0x00EE#16 then some .ret
  else none

/-- Group 0x8 dispatches on N (R77). -/
def decodeGroup8 (n : BitVec 4) (x y : Reg) : Option Instr :=
  if n = 0x0#4 then some (.ldReg x y)
  else if n = 0x1#4 then some (.orReg x y)
  else if n = 0x2#4 then some (.andReg x y)
  else if n = 0x3#4 then some (.xorReg x y)
  else if n = 0x4#4 then some (.addReg x y)
  else if n = 0x5#4 then some (.sub x y)
  else if n = 0x6#4 then some (.shr x y)
  else if n = 0x7#4 then some (.subn x y)
  else if n = 0xE#4 then some (.shl x y)
  else none

/-- Group 0xE dispatches on NN (R78). -/
def decodeGroupE (nn : Byte) (x : Reg) : Option Instr :=
  if nn = 0x9E#8 then some (.skp x)
  else if nn = 0xA1#8 then some (.sknp x)
  else none

/-- Group 0xF dispatches on NN (R79). -/
def decodeGroupF (nn : Byte) (x : Reg) : Option Instr :=
  if nn = 0x07#8 then some (.ldVxDt x)
  else if nn = 0x0A#8 then some (.ldVxK x)
  else if nn = 0x15#8 then some (.ldDtVx x)
  else if nn = 0x18#8 then some (.ldStVx x)
  else if nn = 0x1E#8 then some (.addI x)
  else if nn = 0x29#8 then some (.ldF x)
  else if nn = 0x33#8 then some (.ldB x)
  else if nn = 0x55#8 then some (.stRegs x)
  else if nn = 0x65#8 then some (.ldRegs x)
  else none

/-- `decode(op)` of R74: the instruction, or `none` for the verdict `Unknown`. -/
def decode (w : Word) : Option Instr :=
  let x := nibbleIndex (opX w)
  let y := nibbleIndex (opY w)
  if opGroup w = 0x0#4 then decodeGroup0 w
  else if opGroup w = 0x1#4 then some (.jp (opNNN w))
  else if opGroup w = 0x2#4 then some (.call (opNNN w))
  else if opGroup w = 0x3#4 then some (.seImm x (opNN w))
  else if opGroup w = 0x4#4 then some (.sneImm x (opNN w))
  else if opGroup w = 0x5#4 then if opN w = 0#4 then some (.seReg x y) else none
  else if opGroup w = 0x6#4 then some (.ldImm x (opNN w))
  else if opGroup w = 0x7#4 then some (.addImm x (opNN w))
  else if opGroup w = 0x8#4 then decodeGroup8 (opN w) x y
  else if opGroup w = 0x9#4 then if opN w = 0#4 then some (.sneReg x y) else none
  else if opGroup w = 0xA#4 then some (.ldI (opNNN w))
  else if opGroup w = 0xB#4 then some (.jpV0 (opNNN w))
  else if opGroup w = 0xC#4 then some (.rnd x (opNN w))
  else if opGroup w = 0xD#4 then some (.drw x y (nibbleIndex (opN w)))
  else if opGroup w = 0xE#4 then decodeGroupE (opNN w) x
  else decodeGroupF (opNN w) x

/-- What decoding bytes gives: an instruction and the bytes after it, the illegal word by name (R80),
or too few bytes for the one word every instruction is (R70). -/
inductive Decoded where
  | instr (i : Instr) (rest : List Byte)
  | unknownOpcode (opcode : Word)
  | truncated (bytes : List Byte)
deriving DecidableEq, Repr

/-- The word of two bytes, big-endian: the byte at the lower address is `op[15:8]` (R59). -/
def wordOfBytes (hi lo : Byte) : Word := hi ++ lo

/-- `op[15:8]`, the byte at the lower address (R59). -/
def highByte (w : Word) : Byte := w.extractLsb' 8 8

/-- `op[7:0]`, the byte at the higher address (R59). -/
def lowByte (w : Word) : Byte := w.extractLsb' 0 8

/-- The decoder on bytes as memory holds them. -/
def decodeBytes : List Byte → Decoded
  | hi :: lo :: rest =>
    match decode (wordOfBytes hi lo) with
    | some i => .instr i rest
    | none => .unknownOpcode (wordOfBytes hi lo)
  | bytes => .truncated bytes

/-- The word that the opcode table's bits `w` (bit 0 the least significant of the first word) stand for;
bits above `nbits` are 0. Every row has 16 bits (R70). -/
def tableWord (nbits w : Nat) : Word := BitVec.ofNat 16 (w % 2 ^ nbits)

/-- The instruction the decoder reads from a table word laid out in memory, high byte first (R59). -/
def decodeTableWord (nbits w : Nat) : Option Instr :=
  match decodeBytes [highByte (tableWord nbits w), lowByte (tableWord nbits w)] with
  | .instr i _ => some i
  | .unknownOpcode _ => none
  | .truncated _ => none

/-- A register number or sprite height as its 4-bit field (R72). -/
def nibbleField (r : Fin 16) : BitVec 4 := BitVec.ofNat 4 r.val

/-- A word of group, X, Y and N (patterns 5XY0, 8XYn, 9XY0, DXYN of R73). -/
def wordXYN (g : BitVec 4) (x y : Reg) (n : BitVec 4) : Word := g ++ nibbleField x ++ nibbleField y ++ n

/-- A word of group, X and NN (patterns gXNN, EXnn, FXnn of R73). -/
def wordXNN (g : BitVec 4) (x : Reg) (nn : Byte) : Word := g ++ nibbleField x ++ nn

/-- A word of group and NNN (patterns gNNN of R73). -/
def wordNNN (g : BitVec 4) (nnn : Addr12) : Word := g ++ nnn

/-- The word that encodes an instruction, from the patterns of R73. -/
def encode : Instr → Word
  | .cls => 0x00E0#16
  | .ret => 0x00EE#16
  | .jp nnn => wordNNN 0x1#4 nnn
  | .call nnn => wordNNN 0x2#4 nnn
  | .seImm x nn => wordXNN 0x3#4 x nn
  | .sneImm x nn => wordXNN 0x4#4 x nn
  | .seReg x y => wordXYN 0x5#4 x y 0x0#4
  | .ldImm x nn => wordXNN 0x6#4 x nn
  | .addImm x nn => wordXNN 0x7#4 x nn
  | .ldReg x y => wordXYN 0x8#4 x y 0x0#4
  | .orReg x y => wordXYN 0x8#4 x y 0x1#4
  | .andReg x y => wordXYN 0x8#4 x y 0x2#4
  | .xorReg x y => wordXYN 0x8#4 x y 0x3#4
  | .addReg x y => wordXYN 0x8#4 x y 0x4#4
  | .sub x y => wordXYN 0x8#4 x y 0x5#4
  | .shr x y => wordXYN 0x8#4 x y 0x6#4
  | .subn x y => wordXYN 0x8#4 x y 0x7#4
  | .shl x y => wordXYN 0x8#4 x y 0xE#4
  | .sneReg x y => wordXYN 0x9#4 x y 0x0#4
  | .ldI nnn => wordNNN 0xA#4 nnn
  | .jpV0 nnn => wordNNN 0xB#4 nnn
  | .rnd x nn => wordXNN 0xC#4 x nn
  | .drw x y n => wordXYN 0xD#4 x y (nibbleField n)
  | .skp x => wordXNN 0xE#4 x 0x9E#8
  | .sknp x => wordXNN 0xE#4 x 0xA1#8
  | .ldVxDt x => wordXNN 0xF#4 x 0x07#8
  | .ldVxK x => wordXNN 0xF#4 x 0x0A#8
  | .ldDtVx x => wordXNN 0xF#4 x 0x15#8
  | .ldStVx x => wordXNN 0xF#4 x 0x18#8
  | .addI x => wordXNN 0xF#4 x 0x1E#8
  | .ldF x => wordXNN 0xF#4 x 0x29#8
  | .ldB x => wordXNN 0xF#4 x 0x33#8
  | .stRegs x => wordXNN 0xF#4 x 0x55#8
  | .ldRegs x => wordXNN 0xF#4 x 0x65#8

end Sys2Proof
end

