-- ==== Sys2Proof/Config.lean ====
section
/-! DEFINITION. What is fixed for the life of an instance (spec 00_scope.md R6), and the two free
values the spec draws (R14, R15). -/

namespace Sys2Proof

/-- The two program origins of R6: 0x200, and 0x600 of the ETI-660 convention. -/
inductive ProgramOrigin where
  | at200
  | at600
deriving DecidableEq, Repr

/-- The address the ROM is placed at and execution begins at (R16 "Program origin"). -/
def ProgramOrigin.addr : ProgramOrigin → Nat
  | .at200 => 0x200
  | .at600 => 0x600

/-- The source operand of 8XY6 and 8XYE (R6 `SHIFT_SOURCE`). -/
inductive ShiftSource where
  | vy
  | vx
deriving DecidableEq, Repr

/-- The configuration of R6. The model holds it in `State`, where no step changes it (log entry 1).
`WellFormed.lean` gives the ranges the spec puts on it. -/
structure Config where
  /-- `PROGRAM_ORIGIN` (D1). -/
  programOrigin : ProgramOrigin
  /-- `STACK_CAPACITY`, 12..16 frames (D2). -/
  stackCapacity : Nat
  /-- `SHIFT_SOURCE` (D3). -/
  shiftSource : ShiftSource
  /-- `FONT_BASE`, with FONT_BASE + 80 <= 0x200 (D4). -/
  fontBase : Nat
  /-- `FONT_DATA`, 80 bytes: glyph d at offset 5 * d (D5). -/
  fontData : List Byte
deriving DecidableEq, Repr

/-- FREE VALUE. The byte that the `n`-th draw gives CXNN: `draw RandomByte()` takes a value the model
does not constrain (R14, R143, D6). Log entry 3. -/
opaque Config.randomByte : Nat → Byte

/-- FREE VALUE. The answer the `n`-th draw gives EX9E or EXA1 when V[X] > 15: `draw Bool()` takes a
Boolean the model does not constrain (R15, R200, D22). Log entry 3. -/
opaque Config.keyDraw : Nat → Bool

end Sys2Proof
end

