-- ==== Sys2Proof/Machine/Instance.lean ====
section
/-! DEFINITION. The configuration of the instance that `State.reset` is: the reference values of spec
00_scope.md R6 and 70_reset_and_hazards.md R263. Other instances are made by `State.new`. -/

namespace Sys2Proof.Machine

/-- Glyphs 0 to 7 of the reference font table (R263). -/
def fontLow : List Byte :=
  [0xF0#8, 0x90#8, 0x90#8, 0x90#8, 0xF0#8] ++
  [0x20#8, 0x60#8, 0x20#8, 0x20#8, 0x70#8] ++
  [0xF0#8, 0x10#8, 0xF0#8, 0x80#8, 0xF0#8] ++
  [0xF0#8, 0x10#8, 0xF0#8, 0x10#8, 0xF0#8] ++
  [0x90#8, 0x90#8, 0xF0#8, 0x10#8, 0x10#8] ++
  [0xF0#8, 0x80#8, 0xF0#8, 0x10#8, 0xF0#8] ++
  [0xF0#8, 0x80#8, 0xF0#8, 0x90#8, 0xF0#8] ++
  [0xF0#8, 0x10#8, 0x20#8, 0x40#8, 0x40#8]

/-- Glyphs 8 to F of the reference font table (R263). -/
def fontHigh : List Byte :=
  [0xF0#8, 0x90#8, 0xF0#8, 0x90#8, 0xF0#8] ++
  [0xF0#8, 0x90#8, 0xF0#8, 0x10#8, 0xF0#8] ++
  [0xF0#8, 0x90#8, 0xF0#8, 0x90#8, 0x90#8] ++
  [0xE0#8, 0x90#8, 0xE0#8, 0x90#8, 0xE0#8] ++
  [0xF0#8, 0x80#8, 0x80#8, 0x80#8, 0xF0#8] ++
  [0xE0#8, 0x90#8, 0x90#8, 0x90#8, 0xE0#8] ++
  [0xF0#8, 0x80#8, 0xF0#8, 0x80#8, 0xF0#8] ++
  [0xF0#8, 0x80#8, 0xF0#8, 0x80#8, 0x80#8]

/-- The reference configuration. PROGRAM_ORIGIN, STACK_CAPACITY and FONT_BASE are R6's reference values,
FONT_DATA is R263's table. The spec gives no reference value for SHIFT_SOURCE (D3): VY is a DESIGN
CHOICE (unsafe; log entry 2). -/
def referenceConfig : Config where
  programOrigin := .at200
  stackCapacity := 16
  shiftSource := .vy
  fontBase := 0x050
  fontData := fontLow ++ fontHigh

end Sys2Proof.Machine
end

