-- ==== Sys2Proof/Machine/State.lean ====
section
/-! DEFINITION. The state of one core instance (spec 10_state.md R20 to R40), its errors (60_exceptions.md
R220) and the reasons a step of the model can stop. Plain data throughout. -/

namespace Sys2Proof.Machine

/-- The complete error set of R220. The first four are raised by a step and halt the instance (R224);
`romTooLarge` is raised by `new` only, which then makes no instance (R261). -/
inductive CoreError where
  /-- The word decodes `Unknown`: the word and the address it was fetched from (R221, R94). -/
  | unknownOpcode (opcode pc : Word)
  /-- An access outside 0..4095: its lowest out-of-range address (R222, R53). -/
  | memoryOutOfBounds (address : Nat)
  /-- CALL with a full stack (R112). -/
  | stackOverflow
  /-- RET with an empty stack (R110). -/
  | stackUnderflow
  /-- The ROM exceeds 4096 - PROGRAM_ORIGIN bytes (R261). -/
  | romTooLarge (size capacity : Nat)
deriving DecidableEq, Repr

/-- The run states of R37. -/
inductive RunState where
  /-- `step` fetches and executes the instruction at PC. -/
  | running
  /-- FX0A with X = x waits for a key press. -/
  | waitingForKey (x : Reg)
  /-- A step raised the fatal error e. -/
  | halted (e : CoreError)
deriving DecidableEq, Repr

/-- Bytes at addresses, for the addresses that do not hold their reset byte. The canonical form is
`Memory.wf` (Machine/Ops.lean). -/
abbrev Memory := List Host.Cell

/-- The display: 32 rows of 64 pixels, row first (R35). -/
abbrev Grid := Vector (Vector Bool 64) 32

/-- The tuple of R20, the configuration R6 makes an argument of the model (log entry 1) and the counter
of the free values (log entry 3). -/
structure State where
  /-- V0..VF (R21). -/
  v : Vector Byte 16
  /-- The index register I (R25). -/
  i : Word
  /-- The program counter (R26). -/
  pc : Word
  /-- The number of stack entries in use (R30). -/
  sp : Nat
  /-- S[0..STACK_CAPACITY-1], return addresses (R30). -/
  stack : List Word
  /-- The delay timer (R32). -/
  dt : Byte
  /-- The sound timer (R33). -/
  st : Byte
  /-- M[0..4095] (R50). -/
  mem : Memory
  /-- The framebuffer G (R35). -/
  screen : Grid
  /-- Set by drawing, cleared by the host (R36). -/
  dirty : Bool
  /-- K[0..15] (R34). -/
  keys : Vector Bool 16
  /-- Running, waiting for a key or halted (R37). -/
  runState : RunState
  /-- The configuration, fixed for the life of the instance (R6). -/
  cfg : Config
  /-- MODEL'S OWN: how many free values have been drawn (R14, R15). -/
  draws : Nat
deriving DecidableEq, Repr

/-- Why a step of the model stops. -/
inductive Fault where
  /-- Raised by `step` alone, in run state Halted(e): the call returns `Err(e)` and changes nothing (R91).
  Safe: the hardware runs no instruction there either (log entry 5). -/
  | halted (e : CoreError)
deriving DecidableEq, Repr

/-- Why the model gives an instruction no meaning. -/
inductive Refusal where
  /-- Raised by `exec` for an instruction whose meaning is not written; none is left. Safe. -/
  | notModelled (mnemonic : String)
deriving DecidableEq, Repr

/-- The outcome of a step of this machine. -/
abbrev Result := Host.Outcome State Fault Refusal

/-- A display with every pixel false. -/
def Grid.blank : Grid := Vector.replicate 32 (Vector.replicate 64 false)

/-- The state of an instance with configuration `c` right after `new` with an empty ROM: the table of
R40. Memory lists nothing: an address it does not list holds its reset byte. -/
def State.initial (c : Config) : State where
  v := Vector.replicate 16 0#8
  i := 0#16
  pc := BitVec.ofNat 16 c.programOrigin.addr
  sp := 0
  stack := List.replicate c.stackCapacity 0#16
  dt := 0#8
  st := 0#8
  mem := []
  screen := Grid.blank
  dirty := false
  keys := Vector.replicate 16 false
  runState := .running
  cfg := c
  draws := 0

/-- The machine right after reset: `new` with the reference configuration and an empty ROM (R40, R260,
log entry 6). -/
def State.reset : State := State.initial referenceConfig

end Sys2Proof.Machine
end

