-- ==== Sys2Proof/Machine/Ops.lean ====
section
/-! DEFINITION. The named operations over registers, memory and the stack, taking a fatal error, and the
fetch (spec 10_state.md, 20_memory.md R50 to R53, 40_execution_cycle.md R90 to R97). Every meaning is
written over these. -/

namespace Sys2Proof.Machine

/-! ### Memory -/

/-- The byte an address holds right after reset where no ROM byte is placed: FONT_DATA at
FONT_BASE..FONT_BASE+79, 0 elsewhere (R262, R40, D25; log entry 7). -/
def resetByte (c : Config) (a : Nat) : Byte :=
  if c.fontBase ≤ a ∧ a < c.fontBase + 80 then c.fontData.getD (a - c.fontBase) 0#8 else 0#8

/-- The byte at an address: the listed one, or what an unlisted address reads as. -/
def Memory.get (d : Nat → Byte) : Memory → Nat → Byte
  | [], a => d a
  | (b, w) :: m, a => if a = b then w else Memory.get d m a

/-- A cell in front of a memory, unless it holds what an unlisted address reads as. -/
def Memory.cons (d : Nat → Byte) (a : Nat) (v : Byte) (m : Memory) : Memory :=
  if v = d a then m else (a, v) :: m

/-- One byte written, the canonical form kept. -/
def Memory.put (d : Nat → Byte) : Memory → Nat → Byte → Memory
  | [], a, v => Memory.cons d a v []
  | (b, w) :: m, a, v =>
    if a < b then Memory.cons d a v ((b, w) :: m)
    else if a = b then Memory.cons d a v m
    else (b, w) :: Memory.put d m a v

/-- Bytes written at increasing addresses (R53). -/
def Memory.putBytes (d : Nat → Byte) (m : Memory) (a : Nat) : List Byte → Memory
  | [] => m
  | b :: bs => Memory.putBytes d (Memory.put d m a b) (a + 1) bs

/-- Canonical from address `lo` up: addresses strictly rise, each is in 0..4095 and no entry holds what
an unlisted address reads as. -/
def Memory.wfFrom (d : Nat → Byte) : Nat → Memory → Bool
  | _, [] => true
  | lo, (a, v) :: m => decide (lo ≤ a ∧ a < 4096 ∧ v ≠ d a) && Memory.wfFrom d (a + 1) m

/-- The canonical form of memory: equal memories are equal data. -/
def Memory.wf (d : Nat → Byte) (m : Memory) : Bool := Memory.wfFrom d 0 m

/-- `M[a]` without the bounds check. -/
def State.peek (s : State) (a : Nat) : Byte := Memory.get (resetByte s.cfg) s.mem a

/-- Bytes stored at increasing addresses without the bounds check. -/
def State.poke (s : State) (a : Nat) (bs : List Byte) : State :=
  { s with mem := Memory.putBytes (resetByte s.cfg) s.mem a bs }

/-- The address decoder: the whole range a..a+n-1 lies in 0..4095, addresses unbounded naturals; for
n = 0 nothing is checked (R51 to R53, D15). -/
def inRange (a n : Nat) : Bool := decide (n = 0 ∨ a + n ≤ 4096)

/-- The error of a range that is not: its lowest out-of-range address (R53, D13). -/
def rangeError (a : Nat) : CoreError := .memoryOutOfBounds (max a 4096)

/-- `MemRead(a, n)`, the bytes in address order (R51, R53). -/
def State.memRead (s : State) (a n : Nat) : Except CoreError (List Byte) :=
  if inRange a n then .ok ((List.range n).map fun j => s.peek (a + j)) else .error (rangeError a)

/-- `MemWrite(a, n, v)`, v given as its bytes from the high end (R52, R53). -/
def State.memWrite (s : State) (a : Nat) (bs : List Byte) : Except CoreError State :=
  if inRange a bs.length then .ok (s.poke a bs) else .error (rangeError a)

/-! ### Registers -/

/-- VF, the register that doubles as the flag (R22). -/
def regF : Reg := 15

/-- `V[r]`. -/
def State.reg (s : State) (r : Reg) : Byte := s.v[r.val]

/-- `V[r] <- b`. -/
def State.setReg (s : State) (r : Reg) (b : Byte) : State := { s with v := s.v.set r.val b }

/-- `V[k], V[k+1], .. <-` the bytes of a list (FX65, R165). -/
def State.setRegsFrom (s : State) (k : Nat) : List Byte → State
  | [] => s
  | b :: bs => State.setRegsFrom (s.setReg (Fin.ofNat 16 k) b) (k + 1) bs

/-- `V[0], .., V[x]` in order (FX55, R164). -/
def State.regsUpTo (s : State) (x : Reg) : List Byte := s.v.toList.take (x.val + 1)

/-- `I <- w`. -/
def State.setI (s : State) (w : Word) : State := { s with i := w }

/-- `DT <- b`. -/
def State.setDt (s : State) (b : Byte) : State := { s with dt := b }

/-- `ST <- b`. -/
def State.setSt (s : State) (b : Byte) : State := { s with st := b }

/-- `G <- g`, with `dirty <- 1` (R36). -/
def State.setScreen (s : State) (g : Grid) : State := { s with screen := g, dirty := true }

/-- `runState <- r`. -/
def State.setRunState (s : State) (r : RunState) : State := { s with runState := r }

/-- `K[k] <- pressed` (R34). -/
def State.writeKey (s : State) (k : Fin 16) (pressed : Bool) : State :=
  { s with keys := s.keys.set k.val pressed }

/-- One free value has been drawn. -/
def State.countDraw (s : State) : State := { s with draws := s.draws + 1 }

/-! ### The program counter -/

/-- `PC <- target`. -/
def State.jump (s : State) (target : Word) : State := { s with pc := target }

/-- `advance`: PC <- PC + 2 (R13, R96). -/
def State.advance (s : State) : State := s.jump (s.pc + 2#16)

/-- `skip`: PC <- PC + 4 (R13). -/
def State.skip (s : State) : State := s.jump (s.pc + 4#16)

/-- `if c then skip else advance`. -/
def State.skipIf (s : State) (c : Bool) : State := if c then s.skip else s.advance

/-! ### The stack -/

/-- Push: `S[SP] <- a`, then SP + 1; a full stack raises StackOverflow (R30, R112). -/
def State.push (s : State) (a : Word) : Except CoreError State :=
  if s.sp < s.cfg.stackCapacity then .ok { s with stack := s.stack.set s.sp a, sp := s.sp + 1 }
  else .error .stackOverflow

/-- The entry below the top: what a pop gives (R30). -/
def State.topEntry (s : State) : Word := s.stack.getD (s.sp - 1) 0#16

/-- Pop: SP - 1, then `S[SP]` is jumped to; an empty stack raises StackUnderflow (R30, R110). -/
def State.popToPc (s : State) : Except CoreError State :=
  if 0 < s.sp then .ok ({ s with sp := s.sp - 1 }.jump s.topEntry) else .error .stackUnderflow

/-! ### Fatal errors

Taking a fatal error is the only exceptional entry this core has: nothing is saved but the record, and
control goes nowhere (R226). There is no return from it (R227). -/

/-- `raise e`: every write of the step is discarded and `runState <- Halted(e)` (R97, R224). -/
def State.raise (s : State) (e : CoreError) : State := s.setRunState (.halted e)

/-- An instruction whose check gives a state or an error: the state, or the error taken from the state
at the start of the instruction (R12, R97). -/
def State.attempt (s : State) : Except CoreError State → Result
  | .ok t => .next t
  | .error e => .next (s.raise e)

/-! ### The cycle -/

/-- Fetch: `op <- MemRead(PC, 2) = M[PC] ++ M[PC+1]`, with its bounds check (R93, R59). -/
def State.fetch (s : State) : Except CoreError Word :=
  if inRange s.pc.toNat 2 then .ok (wordOfBytes (s.peek s.pc.toNat) (s.peek (s.pc.toNat + 1)))
  else .error (rangeError s.pc.toNat)

/-- Fetch, then decode; `Unknown` is the error UnknownOpcode with the word and its address (R93, R94). -/
def State.fetchInstr (s : State) : Except CoreError Instr :=
  match s.fetch with
  | .error e => .error e
  | .ok op =>
    match decode op with
    | some i => .ok i
    | none => .error (.unknownOpcode op s.pc)

/-- A step of a halted instance: `Err(e)` again, nothing changed (R91; log entry 5). -/
def haltedStep (e : CoreError) : Result := .fault (.halted e)

/-- A step while waiting for a key: `Ok`, nothing changed (R92). -/
def waitingStep (s : State) : Result := .next s

/-- A state in which the next step fetches the table word `w` of `nbits` bits: the word stored at PC, the
instance running, and PC at PROGRAM_ORIGIN where a fetch at PC would be out of bounds (log entry 6). -/
def State.placeWord (s : State) (w : Word) : State :=
  let t := if inRange s.pc.toNat 2 then s else s.jump (BitVec.ofNat 16 s.cfg.programOrigin.addr)
  (t.poke t.pc.toNat [highByte w, lowByte w]).setRunState .running

end Sys2Proof.Machine
end

