-- ==== Sys2Proof/Machine/Flags.lean ====
section
/-! DEFINITION. The flag computations that go to VF, each from the operand values at the start of the
instruction (spec 10_state.md R22, 42_alu.md R131), and the writes that put the flag last. -/

namespace Sys2Proof.Machine

/-- A flag as the byte VF holds: 1 or 0. -/
def flagByte (c : Bool) : Byte := if c then 1#8 else 0#8

/-- Carry of 8XY4: "1 if result > 255 else 0" (R138). -/
def carryOut (a b : Byte) : Bool := decide (a.toNat + b.toNat > 255)

/-- Not-borrow of a - b: 0 exactly when b > a (R139, and R141 with the operands exchanged). -/
def noBorrow (a b : Byte) : Bool := decide (¬ b.toNat > a.toNat)

/-- The bit 8XY6 shifts out: v AND 1 (R140). -/
def bitOutRight (v : Byte) : Byte := v &&& 1#8

/-- The bit 8XYE shifts out: v >> 7 (R142). -/
def bitOutLeft (v : Byte) : Byte := v >>> 7

/-- The result goes to V[X], then the flag to VF, so that the flag stays when X = F (R131; log
entry 31). -/
def State.setResultThenFlag (s : State) (x : Reg) (result flag : Byte) : State :=
  (s.setReg x result).setReg regF flag

end Sys2Proof.Machine
end

