-- ==== Sys2Proof/Machine/Operands.lean ====
section
/-! DEFINITION. The operand forms beyond a plain register or immediate: the shift source, the key a skip
tests, the random byte, jump and glyph addresses, BCD digits and sprite coordinates. -/

namespace Sys2Proof.Machine

/-- The source of 8XY6 and 8XYE, chosen by `SHIFT_SOURCE` (R140, R142). -/
def State.shiftOperand (s : State) (x y : Reg) : Byte :=
  match s.cfg.shiftSource with
  | .vy => s.reg y
  | .vx => s.reg x

/-- The answer to "is key VX pressed", and the state after a draw where there is no such key (R200). -/
def State.keyTest (s : State) (x : Reg) : Bool × State :=
  if h : (s.reg x).toNat < 16 then (s.keys[(s.reg x).toNat], s)
  else (Config.keyDraw s.draws, s.countDraw)

/-- `draw RandomByte()` (R14). -/
def State.randomByte (s : State) : Byte := Config.randomByte s.draws

/-- The target of BNNN: zext_16(NNN) + zext_16(V0) (R117). -/
def State.offsetTarget (s : State) (nnn : Addr12) : Word := zext16 nnn + zext16 (s.reg 0)

/-- The address of the glyph for the low nibble of a byte: FONT_BASE + 5 * (b AND 0x0F) (R162). -/
def glyphAddress (c : Config) (b : Byte) : Word := BitVec.ofNat 16 (c.fontBase + 5 * (b &&& 0x0F#8).toNat)

/-- The decimal digits of a byte, hundreds first (R163, D21). -/
def bcdDigits (b : Byte) : List Byte :=
  [BitVec.ofNat 8 (b.toNat / 100), BitVec.ofNat 8 (b.toNat / 10 % 10), BitVec.ofNat 8 (b.toNat % 10)]

/-- The column a sprite starts in: V[X] mod 64 (R185). -/
def State.startColumn (s : State) (x : Reg) : Nat := (s.reg x).toNat % 64

/-- The row a sprite starts in: V[Y] mod 32 (R185). -/
def State.startRow (s : State) (y : Reg) : Nat := (s.reg y).toNat % 32

end Sys2Proof.Machine
end

