-- ==== Sys2Proof/Machine/Alu.lean ====
section
/-! DEFINITION. Register and arithmetic instructions (spec 42_alu.md). Arithmetic is 8-bit wraparound
(R130); flags are computed from the operands at the start and VF is written last (R131). -/

namespace Sys2Proof.Machine

/-- 6XNN LD Vx, byte (R132). -/
def execLdImm (x : Reg) (nn : Byte) (s : State) : Result := .next (s.setReg x nn).advance

/-- 7XNN ADD Vx, byte: wrapping, no flag (R133). -/
def execAddImm (x : Reg) (nn : Byte) (s : State) : Result := .next (s.setReg x (s.reg x + nn)).advance

/-- 8XY0 LD Vx, Vy (R134). -/
def execLdReg (x y : Reg) (s : State) : Result := .next (s.setReg x (s.reg y)).advance

/-- 8XY1 OR Vx, Vy: no flag (R135, D18). -/
def execOr (x y : Reg) (s : State) : Result := .next (s.setReg x (s.reg x ||| s.reg y)).advance

/-- 8XY2 AND Vx, Vy: no flag (R136, D18). -/
def execAnd (x y : Reg) (s : State) : Result := .next (s.setReg x (s.reg x &&& s.reg y)).advance

/-- 8XY3 XOR Vx, Vy: no flag (R137, D18). -/
def execXor (x y : Reg) (s : State) : Result := .next (s.setReg x (s.reg x ^^^ s.reg y)).advance

/-- 8XY4 ADD Vx, Vy: VF = carry (R138). -/
def execAddReg (x y : Reg) (s : State) : Result :=
  .next (s.setResultThenFlag x (s.reg x + s.reg y) (flagByte (carryOut (s.reg x) (s.reg y)))).advance

/-- 8XY5 SUB Vx, Vy: VF = not borrow (R139). -/
def execSub (x y : Reg) (s : State) : Result :=
  .next (s.setResultThenFlag x (s.reg x - s.reg y) (flagByte (noBorrow (s.reg x) (s.reg y)))).advance

/-- 8XY6 SHR Vx, Vy: VF = the bit shifted out (R140). -/
def execShr (x y : Reg) (s : State) : Result :=
  .next (s.setResultThenFlag x (s.shiftOperand x y >>> 1) (bitOutRight (s.shiftOperand x y))).advance

/-- 8XY7 SUBN Vx, Vy: VF = not borrow (R141). -/
def execSubn (x y : Reg) (s : State) : Result :=
  .next (s.setResultThenFlag x (s.reg y - s.reg x) (flagByte (noBorrow (s.reg y) (s.reg x)))).advance

/-- 8XYE SHL Vx, Vy: VF = the bit shifted out (R142). -/
def execShl (x y : Reg) (s : State) : Result :=
  .next (s.setResultThenFlag x (s.shiftOperand x y <<< 1) (bitOutLeft (s.shiftOperand x y))).advance

/-- CXNN RND Vx, byte: V[X] <- r AND NN for a drawn r, a free value (R143, D6; log entry 3). -/
def execRnd (x : Reg) (nn : Byte) (s : State) : Result :=
  .next (s.countDraw.setReg x (s.randomByte &&& nn)).advance

end Sys2Proof.Machine
end

