-- ==== Sys2Proof/Machine/ControlFlow.lean ====
section
/-! DEFINITION. Control flow instructions (spec 41_control_flow.md). -/

namespace Sys2Proof.Machine

/-- 00EE RET: pop the return address into PC, with no advance after it (R110). -/
def execRet (s : State) : Result := s.attempt s.popToPc

/-- 1NNN JP addr: PC <- zext_16(NNN) (R111). -/
def execJp (nnn : Addr12) (s : State) : Result := .next (s.jump (zext16 nnn))

/-- 2NNN CALL addr: push PC + 2, the address after the CALL, then PC <- zext_16(NNN) (R112, D7). -/
def execCall (nnn : Addr12) (s : State) : Result :=
  s.attempt ((s.push (s.pc + 2#16)).map (·.jump (zext16 nnn)))

/-- 3XNN SE Vx, byte: skip if V[X] = NN (R113). -/
def execSeImm (x : Reg) (nn : Byte) (s : State) : Result := .next (s.skipIf (s.reg x == nn))

/-- 4XNN SNE Vx, byte: skip if V[X] != NN (R114). -/
def execSneImm (x : Reg) (nn : Byte) (s : State) : Result := .next (s.skipIf (s.reg x != nn))

/-- 5XY0 SE Vx, Vy: skip if V[X] = V[Y] (R115). -/
def execSeReg (x y : Reg) (s : State) : Result := .next (s.skipIf (s.reg x == s.reg y))

/-- 9XY0 SNE Vx, Vy: skip if V[X] != V[Y] (R116). -/
def execSneReg (x y : Reg) (s : State) : Result := .next (s.skipIf (s.reg x != s.reg y))

/-- BNNN JP V0, addr: PC <- zext_16(NNN) + zext_16(V0) (R117). -/
def execJpV0 (nnn : Addr12) (s : State) : Result := .next (s.jump (s.offsetTarget nnn))

end Sys2Proof.Machine
end

