-- ==== Sys2Proof/Machine/Display.lean ====
section
/-! DEFINITION. Display instructions and the sprite plot (spec 44_display.md). -/

namespace Sys2Proof.Machine

/-- `G[y][x]` (R35). -/
def Grid.pixel (g : Grid) (y : Fin 32) (x : Fin 64) : Bool := (g[y.val])[x.val]

/-- `G[y][x] <- not G[y][x]`. -/
def Grid.toggle (g : Grid) (y : Fin 32) (x : Fin 64) : Grid :=
  g.set y.val ((g[y.val]).set x.val (!g.pixel y x))

/-- A plot under way: the grid so far, and whether an on-pixel has been erased (R183). -/
structure Plot where
  grid : Grid
  collision : Bool
deriving DecidableEq, Repr

/-- One sprite bit at one pixel: a 1 toggles it, noting an erased pixel; a 0 leaves it (R182, R183). -/
def Plot.bit (p : Plot) (y : Fin 32) (x : Fin 64) (b : Bool) : Plot :=
  if b then ⟨p.grid.toggle y x, p.collision || p.grid.pixel y x⟩ else p

/-- One sprite byte on display row y from column x0: column c, bit 7 - c, at (x0 + c) mod 64 (R181, R182,
D20; log entry 31). -/
def Plot.byte (p : Plot) (y : Fin 32) (x0 : Nat) (b : Byte) : Plot :=
  (List.range 8).foldl (fun q c => q.bit y (Fin.ofNat 64 (x0 + c)) (b.getLsbD (7 - c))) p

/-- Sprite bytes on successive rows from row y0, each mod 32 (R181). -/
def Plot.rows (p : Plot) (y0 x0 : Nat) : List Byte → Plot
  | [] => p
  | b :: bs => Plot.rows (p.byte (Fin.ofNat 32 y0) x0 b) (y0 + 1) x0 bs

/-- 00E0 CLS: every pixel false, dirty set (R180). -/
def execCls (s : State) : Result := .next (s.setScreen Grid.blank).advance

/-- The plot of DXYN for the sprite bytes read (R185). -/
def State.plotSprite (s : State) (x y : Reg) (bytes : List Byte) : Plot :=
  Plot.rows ⟨s.screen, false⟩ (s.startRow y) (s.startColumn x) bytes

/-- DXYN DRW Vx, Vy, nibble: the coordinates are read before VF is written; VF = collision; dirty set
(R185). -/
def execDrw (x y : Reg) (n : Fin 16) (s : State) : Result :=
  s.attempt ((s.memRead s.i.toNat n.val).map fun bytes =>
    let p := s.plotSprite x y bytes
    ((s.setScreen p.grid).setReg regF (flagByte p.collision)).advance)

end Sys2Proof.Machine
end

