-- ==== Sys2Proof/Machine/IndexMemory.lean ====
section
/-! DEFINITION. Index register and memory instructions (spec 43_index_memory.md). None of the last three
changes I (D17). -/

namespace Sys2Proof.Machine

/-- ANNN LD I, addr (R160). -/
def execLdI (nnn : Addr12) (s : State) : Result := .next (s.setI (zext16 nnn)).advance

/-- FX1E ADD I, Vx: mod 65536, no flag (R161, D16). -/
def execAddI (x : Reg) (s : State) : Result := .next (s.setI (s.i + zext16 (s.reg x))).advance

/-- FX29 LD F, Vx: I <- the glyph's address (R162). -/
def execLdF (x : Reg) (s : State) : Result := .next (s.setI (glyphAddress s.cfg (s.reg x))).advance

/-- FX33 LD B, Vx: three decimal digits at I, I+1, I+2 (R163). -/
def execLdB (x : Reg) (s : State) : Result :=
  s.attempt ((s.memWrite s.i.toNat (bcdDigits (s.reg x))).map (·.advance))

/-- FX55 LD [I], Vx: V0..VX stored from I up (R164). -/
def execStRegs (x : Reg) (s : State) : Result :=
  s.attempt ((s.memWrite s.i.toNat (s.regsUpTo x)).map (·.advance))

/-- FX65 LD Vx, [I]: V0..VX loaded from I up (R165). -/
def execLdRegs (x : Reg) (s : State) : Result :=
  s.attempt ((s.memRead s.i.toNat (x.val + 1)).map fun bs => (s.setRegsFrom 0 bs).advance)

end Sys2Proof.Machine
end

