-- ==== Sys2Proof/Machine/KeysTimers.lean ====
section
/-! DEFINITION. Key and timer instructions (spec 45_keys_timers.md). The key-press event that ends FX0A is
in Machine/HostInterface.lean. -/

namespace Sys2Proof.Machine

/-- EX9E SKP Vx: skip if key VX is pressed; a free answer where no such key exists (R200, R201). -/
def execSkp (x : Reg) (s : State) : Result := .next ((s.keyTest x).2.skipIf (s.keyTest x).1)

/-- EXA1 SKNP Vx: skip if key VX is not pressed; a free answer where no such key exists (R200, R202). -/
def execSknp (x : Reg) (s : State) : Result := .next ((s.keyTest x).2.skipIf (!(s.keyTest x).1))

/-- FX07 LD Vx, DT (R205). -/
def execLdVxDt (x : Reg) (s : State) : Result := .next (s.setReg x s.dt).advance

/-- FX0A LD Vx, K: runState <- WaitingForKey(X); PC and V[X] stay (R206, D23, D37). -/
def execLdVxK (x : Reg) (s : State) : Result := .next (s.setRunState (.waitingForKey x))

/-- FX15 LD DT, Vx (R210). -/
def execLdDtVx (x : Reg) (s : State) : Result := .next (s.setDt (s.reg x)).advance

/-- FX18 LD ST, Vx (R211). -/
def execLdStVx (x : Reg) (s : State) : Result := .next (s.setSt (s.reg x)).advance

end Sys2Proof.Machine
end

