-- ==== Sys2Proof/Machine/Step.lean ====
section
/-! DEFINITION. `step()` (spec 40_execution_cycle.md R90), and the placing of a word where the next step
fetches it. -/

namespace Sys2Proof.Machine

/-- One call of `step()` (R90): in Halted(e) and WaitingForKey(x) nothing changes (R91, R92); in Running the
instruction at PC is fetched, decoded and executed, or the error of the fetch or the decode is taken
(R93 to R97). -/
def step (s : State) : Host.Outcome State Fault Refusal :=
  match s.runState with
  | .halted e => haltedStep e
  | .waitingForKey _ => waitingStep s
  | .running =>
    match s.fetchInstr with
    | .error e => s.attempt (.error e)
    | .ok i => exec i s

/-- The same state, set so that the very next step runs the table word `w` of `nbits` bits. It stands for
a load of the ROM from outside (log entry 6). -/
def State.withFetchWord (s : State) (nbits w : Nat) : State := s.placeWord (tableWord nbits w)

end Sys2Proof.Machine
end

