-- ==== Sys2Proof/Machine/HostInterface.lean ====
section
/-! DEFINITION. The host interface (spec 60_exceptions.md R233 to R241, 45_keys_timers.md R208,
70_reset_and_hazards.md R260 to R262): each call is one atomic transaction, and the host makes them one at
a time in any order (R236; log entry 26). -/

namespace Sys2Proof.Machine

/-- The largest ROM: 4096 - PROGRAM_ORIGIN bytes (R261). -/
def romCapacity (c : Config) : Nat := 4096 - c.programOrigin.addr

/-- `new(rom_bytes)` with a configuration: the reset state with the ROM placed at PROGRAM_ORIGIN, or
RomTooLarge and no instance (R260 to R262). -/
def State.new (c : Config) (rom : List Byte) : Except CoreError State :=
  if rom.length ≤ romCapacity c then .ok ((State.initial c).poke c.programOrigin.addr rom)
  else .error (.romTooLarge rom.length (romCapacity c))

/-- What a call of `step()` returns: `Err(e)` exactly when it leaves the instance in Halted(e), `Ok`
otherwise (R90). -/
def State.stepReturn (s : State) : Except CoreError Unit :=
  match s.runState with
  | .halted e => .error e
  | .waitingForKey _ => .ok ()
  | .running => .ok ()

/-- `step() -> Result<(), CoreError>`: the state after the call and what it returns (R90). A halted
instance stays as it is (R91). No step is refused. -/
def stepCall (s : State) : State × Except CoreError Unit :=
  match step s with
  | .next t => (t, t.stepReturn)
  | .fault (.halted e) => (s, .error e)
  | .refused _ => (s, s.stepReturn)

/-- A timer after one tick: one less, a timer at 0 staying 0 (R234). -/
def tickTimer (b : Byte) : Byte := if 0 < b.toNat then b - 1#8 else b

/-- `tick_timers()`, in every run state (R234, R235). -/
def State.tickTimers (s : State) : State := { s with dt := tickTimer s.dt, st := tickTimer s.st }

/-- The key-press event while waiting: V[x] <- k, PC <- PC + 2, Running (R208, R209). -/
def State.keyPress (s : State) (k : Fin 16) : State :=
  match s.runState with
  | .waitingForKey x => ((s.setReg x (BitVec.ofNat 8 k.val)).advance).setRunState .running
  | .running => s
  | .halted _ => s

/-- `set_key(k, pressed)`: `none` is the refusal at the interface of a key number of 16 or more (R238). -/
def State.setKey (s : State) (k : Nat) (pressed : Bool) : Option State :=
  if h : k < 16 then
    some (if pressed then (s.writeKey ⟨k, h⟩ true).keyPress ⟨k, h⟩ else s.writeKey ⟨k, h⟩ false)
  else none

/-- `clear_dirty()` (R240). -/
def State.clearDirty (s : State) : State := { s with dirty := false }

/-- `framebuffer()` (R239). -/
def State.framebuffer (s : State) : Grid := s.screen

/-- `is_beeping()`: ST != 0 (R233). -/
def State.isBeeping (s : State) : Bool := s.st != 0#8

/-- `is_dirty()` (R240). -/
def State.isDirty (s : State) : Bool := s.dirty

/-- The transactions of R236 that can change an instance, and the output reads, which change nothing. -/
inductive HostOp where
  | step
  | tickTimers
  | setKey (k : Nat) (pressed : Bool)
  | clearDirty
  | framebuffer
  | isBeeping
  | isDirty
deriving DecidableEq, Repr

/-- The instance after one transaction; a refused `set_key` changes nothing (R236 to R240). -/
def State.apply (s : State) : HostOp → State
  | .step => (stepCall s).1
  | .tickTimers => s.tickTimers
  | .setKey k pressed => (s.setKey k pressed).getD s
  | .clearDirty => s.clearDirty
  | .framebuffer => s
  | .isBeeping => s
  | .isDirty => s

/-- The instance after the transactions of a list, in order: the host's order is free (R236). -/
def State.runOps (s : State) (ops : List HostOp) : State := ops.foldl State.apply s

end Sys2Proof.Machine
end

