-- ==== Sys2Proof/WellFormed.lean ====
section
/-! DEFINITION. What is well formed: a configuration within the ranges of spec 00_scope.md R6, and an
instruction word that one row of the opcode map selects (30_encoding.md R73). An `Instr` needs no check
of its own: each operand's type is its field's width. -/

namespace Sys2Proof

/-- `STACK_CAPACITY` is an integer in 12..16 (R6). -/
def Config.capacityOk (c : Config) : Bool := decide (12 ≤ c.stackCapacity ∧ c.stackCapacity ≤ 16)

/-- The font lies inside the reserved range: FONT_BASE + 80 <= 0x200 (R6, R56). -/
def Config.fontBaseOk (c : Config) : Bool := decide (c.fontBase + 80 ≤ 0x200)

/-- `FONT_DATA` is 80 bytes, 16 glyphs of 5 bytes (R6). -/
def Config.fontDataOk (c : Config) : Bool := decide (c.fontData.length = 80)

/-- A configuration a model may take (R6). -/
def Config.wf (c : Config) : Bool := c.capacityOk && c.fontBaseOk && c.fontDataOk

/-- A row of the opcode map: its mask and match words (R73). -/
structure OpcodeRow where
  mnemonic : String
  mask : Word
  pattern : Word
deriving DecidableEq, Repr

/-- An opcode selects a row iff `(op AND mask) = match` (R73). -/
def OpcodeRow.selects (r : OpcodeRow) (w : Word) : Bool := w &&& r.mask == r.pattern

/-- Rows of groups 0x0 to 0x7. -/
def opcodeRowsLow : List OpcodeRow :=
  [⟨"CLS", 0xFFFF#16, 0x00E0#16⟩, ⟨"RET", 0xFFFF#16, 0x00EE#16⟩,
   ⟨"JP", 0xF000#16, 0x1000#16⟩, ⟨"CALL", 0xF000#16, 0x2000#16⟩,
   ⟨"SE_IMM", 0xF000#16, 0x3000#16⟩, ⟨"SNE_IMM", 0xF000#16, 0x4000#16⟩,
   ⟨"SE_REG", 0xF00F#16, 0x5000#16⟩, ⟨"LD_IMM", 0xF000#16, 0x6000#16⟩,
   ⟨"ADD_IMM", 0xF000#16, 0x7000#16⟩]

/-- Rows of groups 0x8 to 0xD. -/
def opcodeRowsMid : List OpcodeRow :=
  [⟨"LD_REG", 0xF00F#16, 0x8000#16⟩, ⟨"OR", 0xF00F#16, 0x8001#16⟩,
   ⟨"AND", 0xF00F#16, 0x8002#16⟩, ⟨"XOR", 0xF00F#16, 0x8003#16⟩,
   ⟨"ADD_REG", 0xF00F#16, 0x8004#16⟩, ⟨"SUB", 0xF00F#16, 0x8005#16⟩,
   ⟨"SHR", 0xF00F#16, 0x8006#16⟩, ⟨"SUBN", 0xF00F#16, 0x8007#16⟩,
   ⟨"SHL", 0xF00F#16, 0x800E#16⟩, ⟨"SNE_REG", 0xF00F#16, 0x9000#16⟩,
   ⟨"LD_I", 0xF000#16, 0xA000#16⟩, ⟨"JP_V0", 0xF000#16, 0xB000#16⟩,
   ⟨"RND", 0xF000#16, 0xC000#16⟩, ⟨"DRW", 0xF000#16, 0xD000#16⟩]

/-- Rows of groups 0xE and 0xF. -/
def opcodeRowsHigh : List OpcodeRow :=
  [⟨"SKP", 0xF0FF#16, 0xE09E#16⟩, ⟨"SKNP", 0xF0FF#16, 0xE0A1#16⟩,
   ⟨"LD_VX_DT", 0xF0FF#16, 0xF007#16⟩, ⟨"LD_VX_K", 0xF0FF#16, 0xF00A#16⟩,
   ⟨"LD_DT_VX", 0xF0FF#16, 0xF015#16⟩, ⟨"LD_ST_VX", 0xF0FF#16, 0xF018#16⟩,
   ⟨"ADD_I", 0xF0FF#16, 0xF01E#16⟩, ⟨"LD_F", 0xF0FF#16, 0xF029#16⟩,
   ⟨"LD_B", 0xF0FF#16, 0xF033#16⟩, ⟨"ST_REGS", 0xF0FF#16, 0xF055#16⟩,
   ⟨"LD_REGS", 0xF0FF#16, 0xF065#16⟩]

/-- The opcode map of R73 as masks and matches. -/
def opcodeTable : List OpcodeRow := opcodeRowsLow ++ opcodeRowsMid ++ opcodeRowsHigh

/-- A legal instruction word: some row of the map selects it; every other word is illegal (R80). -/
def legalWord (w : Word) : Bool := opcodeTable.any (·.selects w)

/-- The row an instruction stands in, by its table mnemonic. -/
def Instr.mnemonic : Instr → String
  | .cls => "CLS"
  | .ret => "RET"
  | .jp _ => "JP"
  | .call _ => "CALL"
  | .seImm _ _ => "SE_IMM"
  | .sneImm _ _ => "SNE_IMM"
  | .seReg _ _ => "SE_REG"
  | .ldImm _ _ => "LD_IMM"
  | .addImm _ _ => "ADD_IMM"
  | .ldReg _ _ => "LD_REG"
  | .orReg _ _ => "OR"
  | .andReg _ _ => "AND"
  | .xorReg _ _ => "XOR"
  | .addReg _ _ => "ADD_REG"
  | .sub _ _ => "SUB"
  | .shr _ _ => "SHR"
  | .subn _ _ => "SUBN"
  | .shl _ _ => "SHL"
  | .sneReg _ _ => "SNE_REG"
  | .ldI _ => "LD_I"
  | .jpV0 _ => "JP_V0"
  | .rnd _ _ => "RND"
  | .drw _ _ _ => "DRW"
  | .skp _ => "SKP"
  | .sknp _ => "SKNP"
  | .ldVxDt _ => "LD_VX_DT"
  | .ldVxK _ => "LD_VX_K"
  | .ldDtVx _ => "LD_DT_VX"
  | .ldStVx _ => "LD_ST_VX"
  | .addI _ => "ADD_I"
  | .ldF _ => "LD_F"
  | .ldB _ => "LD_B"
  | .stRegs _ => "ST_REGS"
  | .ldRegs _ => "LD_REGS"

end Sys2Proof
end

