-- ==== Sys2Proof/Safety.lean ====
section
/-! DEFINITION. The terms claims are made in: the invariant of an instance, a safe run, and the spec's
whole-instruction-set tables (which instruction writes what, which error each can raise, the next PC). -/

namespace Sys2Proof.Machine

/-! ### Safe runs -/

/-- The instance has raised no fatal error (R37). -/
def State.live (s : State) : Bool :=
  match s.runState with
  | .halted _ => false
  | .waitingForKey _ => true
  | .running => true

/-- A safe run: every prefix of the host's transactions leaves the instance live. -/
def SafeRun (s : State) (ops : List HostOp) : Prop := ∀ k, (s.runOps (ops.take k)).live = true

/-! ### The invariant -/

/-- An error record a step can leave tells the truth: the word is illegal, the address out of range; and no
step leaves RomTooLarge (R220). -/
def RunState.recordOk : RunState → Bool
  | .running => true
  | .waitingForKey _ => true
  | .halted (.unknownOpcode op _) => (decode op).isNone
  | .halted (.memoryOutOfBounds a) => decide (4096 ≤ a)
  | .halted .stackOverflow => true
  | .halted .stackUnderflow => true
  | .halted (.romTooLarge _ _) => false

/-- What holds of every instance from `new` on, whatever the host does. -/
structure State.Inv (s : State) : Prop where
  /-- The configuration is within R6's ranges. -/
  cfgOk : s.cfg.wf = true
  /-- Memory is in its canonical form. -/
  memOk : Memory.wf (resetByte s.cfg) s.mem = true
  /-- S has STACK_CAPACITY entries (R30). -/
  stackSize : s.stack.length = s.cfg.stackCapacity
  /-- 0 <= SP <= STACK_CAPACITY (R30). -/
  spBound : s.sp ≤ s.cfg.stackCapacity
  /-- No CALL above 0xFFE pushes: return addresses are at most 0x1000 (R112). -/
  returnBound : ∀ a ∈ s.stack, a.toNat ≤ 0x1000
  /-- PC is at most 0x10FE (R28). -/
  pcBound : s.pc.toNat ≤ 0x10FE
  /-- While waiting, PC is the address of a fetched FX0A (R206, R93). -/
  waitingPc : ∀ x, s.runState = .waitingForKey x → s.pc.toNat ≤ 4094
  /-- The error record of a halted instance tells the truth. -/
  recordOk : s.runState.recordOk = true

/-! ### Reset values -/

/-- The reset value of every piece of state but memory, for an instance with configuration `c`: the table of
R40, with PC = PROGRAM_ORIGIN and Running (R264). -/
structure InitialValues (c : Config) (s : State) : Prop where
  regs : ∀ r, s.reg r = 0#8
  i : s.i = 0#16
  pc : s.pc.toNat = c.programOrigin.addr
  sp : s.sp = 0
  stackSize : s.stack.length = c.stackCapacity
  stack : ∀ a ∈ s.stack, a = 0#16
  dt : s.dt = 0#8
  st : s.st = 0#8
  screen : ∀ y x, s.screen.pixel y x = false
  dirty : s.dirty = false
  keys : ∀ k : Fin 16, s.keys[k.val] = false
  runState : s.runState = .running
  cfg : s.cfg = c

/-! ### Frames -/

/-- `t` differs from `s` at most in PC and in the general registers of `w`. -/
def OnlyRegs (s t : State) (w : Reg → Prop) : Prop :=
  t = { s with v := t.v, pc := t.pc } ∧ ∀ r, ¬ w r → t.reg r = s.reg r

end Sys2Proof.Machine

namespace Sys2Proof

open Machine

/-! ### What each instruction writes, raises and goes to -/

/-- The general registers an instruction writes in its own step (R23; FX0A's V[X] comes with the key
press). -/
def Instr.writesReg : Instr → Reg → Bool
  | .ldImm x _, r => r == x
  | .addImm x _, r => r == x
  | .ldReg x _, r => r == x
  | .orReg x _, r => r == x
  | .andReg x _, r => r == x
  | .xorReg x _, r => r == x
  | .rnd x _, r => r == x
  | .ldVxDt x, r => r == x
  | .addReg x _, r => r == x || r == regF
  | .sub x _, r => r == x || r == regF
  | .shr x _, r => r == x || r == regF
  | .subn x _, r => r == x || r == regF
  | .shl x _, r => r == x || r == regF
  | .drw _ _ _, r => r == regF
  | .ldRegs x, r => decide (r.val ≤ x.val)
  | _, _ => false

/-- The bytes an instruction stores to: first address and count (R54). -/
def Instr.storeRange (i : Instr) (s : State) : Nat × Nat :=
  match i with
  | .ldB _ => (s.i.toNat, 3)
  | .stRegs x => (s.i.toNat, x.val + 1)
  | _ => (0, 0)

/-- The error an instruction's own check raises, by the causes of R220 and R222; addresses as R53 gives
them. -/
def Instr.errorAt (i : Instr) (s : State) : Option CoreError :=
  match i with
  | .ret => if s.sp = 0 then some .stackUnderflow else none
  | .call _ => if s.cfg.stackCapacity ≤ s.sp then some .stackOverflow else none
  | .drw _ _ n =>
    if 0 < n.val ∧ 4096 < s.i.toNat + n.val then some (.memoryOutOfBounds (max s.i.toNat 4096)) else none
  | .ldB _ => if 4095 < s.i.toNat + 2 then some (.memoryOutOfBounds (max s.i.toNat 4096)) else none
  | .stRegs x => if 4095 < s.i.toNat + x.val then some (.memoryOutOfBounds (max s.i.toNat 4096)) else none
  | .ldRegs x => if 4095 < s.i.toNat + x.val then some (.memoryOutOfBounds (max s.i.toNat 4096)) else none
  | _ => none

/-- The condition a skip instruction tests; `none` for the others (R113 to R116, R201, R202). -/
def Instr.skipCondition (i : Instr) (s : State) : Option Bool :=
  match i with
  | .seImm x nn => some (s.reg x == nn)
  | .sneImm x nn => some (s.reg x != nn)
  | .seReg x y => some (s.reg x == s.reg y)
  | .sneReg x y => some (s.reg x != s.reg y)
  | .skp x => some (s.keyTest x).1
  | .sknp x => some (!(s.keyTest x).1)
  | _ => none

/-- The next PC of an instruction that raises no error (R27). -/
def Instr.nextPc (i : Instr) (s : State) : Word :=
  match i with
  | .jp nnn => zext16 nnn
  | .call nnn => zext16 nnn
  | .ret => s.stack.getD (s.sp - 1) 0#16
  | .jpV0 nnn => zext16 nnn + zext16 (s.reg 0)
  | .ldVxK _ => s.pc
  | i =>
    match i.skipCondition s with
    | some true => s.pc + 4#16
    | some false => s.pc + 2#16
    | none => s.pc + 2#16

end Sys2Proof

namespace Sys2Proof.Machine

/-! ### The error of a step -/

/-- The word a fetch at PC reads (R93). -/
def State.wordAtPc (s : State) : Word := s.peek s.pc.toNat ++ s.peek (s.pc.toNat + 1)

/-- The error a step of a running instance raises, in the order of R99 and R225: fetch bounds, then decode,
then the instruction's own check. -/
def State.stepError (s : State) : Option CoreError :=
  if 4095 < s.pc.toNat + 1 then some (.memoryOutOfBounds (max s.pc.toNat 4096))
  else
    match decode s.wordAtPc with
    | none => some (.unknownOpcode s.wordAtPc s.pc)
    | some i => i.errorAt s

/-! ### The sprite plot, pixel by pixel -/

/-- Some 1 bit of the sprite lands on pixel (y, x): row r of the bytes on display row (y0 + r) mod 32,
column c, bit 7 - c, on display column (x0 + c) mod 64 (R181, R182). -/
def SpriteCovers (bytes : List Byte) (y0 x0 : Nat) (y : Fin 32) (x : Fin 64) : Prop :=
  ∃ r c, r < bytes.length ∧ c < 8 ∧ (bytes.getD r 0#8).getLsbD (7 - c) = true ∧
    y.val = (y0 + r) % 32 ∧ x.val = (x0 + c) % 64

end Sys2Proof.Machine
end

