-- ==== Sys2Proof/Certificates/Slice0/Obligations.lean ====
section
/-! DEFINITION. The statements for the provers, each from the numbered rules of spec/. A docstring names the
rule, and says where a clause is the spec's own decision (D<n> of 92_eei_decisions.md) or the model's choice
(a log entry). -/

open Sys2Proof Sys2Proof.Machine

/-! ### Encoding -/

/-- R73, R74: decoding the encoding of any instruction gives it back, with every operand at every value. -/
def Obligations.DecodeOfEncodeIsIdentity : Prop := ∀ i : Instr, decode (encode i) = some i

/-- R73, R74: each legal word has one meaning, and the encoder gives exactly that word. -/
def Obligations.EncodeOfDecodeIsIdentity : Prop := ∀ w i, decode w = some i → encode i = w

/-- R73: a word is an instruction exactly when a row's mask and match select it, and the only row that
selects it is its instruction's own. -/
def Obligations.DecoderAcceptsExactlyTheOpcodeMap : Prop :=
  ∀ w : Word, (decode w).isSome = legalWord w ∧
    ∀ i, decode w = some i → ∀ r ∈ opcodeTable, r.selects w = decide (r.mnemonic = i.mnemonic)

/-- R75 to R80 (R75 and R76 by D9, D10): the illegal words, group by group. -/
def Obligations.IllegalWordsByGroup : Prop :=
  ∀ w : Word, decode w = none ↔
    (opGroup w = 0x0#4 ∧ w ≠ 0x00E0#16 ∧ w ≠ 0x00EE#16) ∨
    (opGroup w = 0x5#4 ∧ opN w ≠ 0x0#4) ∨
    (opGroup w = 0x8#4 ∧ opN w ∈ [0x8#4, 0x9#4, 0xA#4, 0xB#4, 0xC#4, 0xD#4, 0xF#4]) ∨
    (opGroup w = 0x9#4 ∧ opN w ≠ 0x0#4) ∨
    (opGroup w = 0xE#4 ∧ opNN w ∉ [0x9E#8, 0xA1#8]) ∨
    (opGroup w = 0xF#4 ∧
      opNN w ∉ [0x07#8, 0x0A#8, 0x15#8, 0x18#8, 0x1E#8, 0x29#8, 0x33#8, 0x55#8, 0x65#8])

/-- R71, R73: words written out from the opcode map decode to their instructions, one of each family (the
top nibble "selects instruction family"). -/
def Obligations.SampleWordsDecode : Prop :=
  decode 0x00E0#16 = some .cls ∧ decode 0x1234#16 = some (.jp 0x234#12) ∧
  decode 0x2ABC#16 = some (.call 0xABC#12) ∧ decode 0x3A42#16 = some (.seImm 10 0x42#8) ∧
  decode 0x4B17#16 = some (.sneImm 11 0x17#8) ∧ decode 0x5C60#16 = some (.seReg 12 6) ∧
  decode 0x6A2B#16 = some (.ldImm 10 0x2B#8) ∧ decode 0x7003#16 = some (.addImm 0 0x03#8) ∧
  decode 0x8126#16 = some (.shr 1 2) ∧ decode 0x9E40#16 = some (.sneReg 14 4) ∧
  decode 0xA30F#16 = some (.ldI 0x30F#12) ∧ decode 0xB5FF#16 = some (.jpV0 0x5FF#12) ∧
  decode 0xC30F#16 = some (.rnd 3 0x0F#8) ∧ decode 0xD125#16 = some (.drw 1 2 5) ∧
  decode 0xE59E#16 = some (.skp 5) ∧ decode 0xF233#16 = some (.ldB 2) ∧ decode 0x0000#16 = none

/-! ### The cycle -/

/-- R93 to R95: where the bytes at PC decode to an instruction, a step of a running instance is that
instruction's execution. -/
def Obligations.StepRunsTheDecodedInstruction : Prop :=
  ∀ (s : State) (i : Instr), s.runState = .running → s.pc.toNat + 1 ≤ 4095 →
    decode (s.peek s.pc.toNat ++ s.peek (s.pc.toNat + 1)) = some i → step s = exec i s

/-- R90 with R91, R93, R94, R206 (D12, D13, D14, D37): the state after a call of step and what it returns, in
each run state. A running call returns `Ok` unless it leaves the instance in Halted(e), and then `Err(e)`. -/
def Obligations.StepCallFollowsRunState : Prop :=
  ∀ s : State,
    (∀ e, s.runState = .halted e → stepCall s = (s, .error e)) ∧
    (∀ x, s.runState = .waitingForKey x → stepCall s = (s, .ok ())) ∧
    (s.runState = .running → 4095 < s.pc.toNat + 1 →
      stepCall s = ({ s with runState := .halted (.memoryOutOfBounds (max s.pc.toNat 4096)) },
        .error (.memoryOutOfBounds (max s.pc.toNat 4096)))) ∧
    (s.runState = .running → s.pc.toNat + 1 ≤ 4095 → decode s.wordAtPc = none →
      stepCall s = ({ s with runState := .halted (.unknownOpcode s.wordAtPc s.pc) },
        .error (.unknownOpcode s.wordAtPc s.pc))) ∧
    (∀ i, s.runState = .running → s.pc.toNat + 1 ≤ 4095 → decode s.wordAtPc = some i →
      ∃ t, exec i s = .next t ∧ (∀ e, t.runState = .halted e → stepCall s = (t, .error e)) ∧
        ((∀ e, t.runState ≠ .halted e) → stepCall s = (t, .ok ())))

/-- R97, R224 (D11): a step that raises an error changes nothing but runState. -/
def Obligations.FatalErrorsArePrecise : Prop :=
  ∀ (s t : State) (e : CoreError), s.live = true → step s = .next t → t.runState = .halted e →
    t = { s with runState := .halted e }

/-- R220, R222, R99, R225 (D33): a running instance halts exactly on the listed causes, in the listed order,
with the listed record. -/
def Obligations.StepHaltsExactlyOnListedCauses : Prop :=
  ∀ (s : State) (e : CoreError), s.runState = .running →
    ((∃ t, step s = .next t ∧ t.runState = .halted e) ↔ s.stepError = some e)

/-- The model's choice (log entries 4 and 5) over R90, R91: no step is refused, and the only fault is the
step of a halted instance, which carries the recorded error. -/
def Obligations.StepFaultsOnlyWhenHalted : Prop :=
  ∀ s : State, (∀ r, step s ≠ .refused r) ∧
    ∀ e, step s = .fault (.halted e) ↔ s.runState = .halted e

/-- R91, R235, R238 (D14): whatever the host does, a halted instance stays halted with its record, only its
timers, keys and dirty flag can still change, and step keeps returning the error. -/
def Obligations.HaltedIsForEver : Prop :=
  ∀ (s : State) (e : CoreError) (ops : List HostOp), s.runState = .halted e →
    (stepCall (s.runOps ops)).2 = .error e ∧
    s.runOps ops = { s with
      dt := (s.runOps ops).dt, st := (s.runOps ops).st, keys := (s.runOps ops).keys,
      dirty := (s.runOps ops).dirty }

/-- R92, R208, R245: while waiting for a key, transactions without a key press leave the instance waiting,
with every register, I, PC, the stack, memory and the display as they were. -/
def Obligations.WaitEndsOnlyByKeyPress : Prop :=
  ∀ (s : State) (x : Reg) (ops : List HostOp), s.runState = .waitingForKey x →
    (∀ k, k < 16 → HostOp.setKey k true ∉ ops) →
    s.runOps ops = { s with
      dt := (s.runOps ops).dt, st := (s.runOps ops).st, keys := (s.runOps ops).keys,
      dirty := (s.runOps ops).dirty }

/-! ### Frames over all instructions -/

/-- R21 to R23: an instruction changes no general register but the ones R23 lists for it. -/
def Obligations.RegisterWritersAreListed : Prop :=
  ∀ (i : Instr) (s t : State) (r : Reg), exec i s = .next t → i.writesReg r = false → t.reg r = s.reg r

/-- R25 (D17): only ANNN, FX1E and FX29 change I. -/
def Obligations.IndexWritersAreListed : Prop :=
  ∀ (i : Instr) (s t : State), exec i s = .next t →
    t.i = s.i ∨ (∃ nnn, i = .ldI nnn) ∨ (∃ x, i = .addI x) ∨ (∃ x, i = .ldF x)

/-- R30, R31 (D27): only CALL and RET change SP, and only CALL changes an entry, the one at the old SP. -/
def Obligations.StackWritersAreListed : Prop :=
  ∀ (i : Instr) (s t : State), exec i s = .next t →
    (t.sp = s.sp ∨ i = .ret ∨ ∃ nnn, i = .call nnn) ∧
    (t.stack = s.stack ∨ ∃ nnn, i = .call nnn ∧ ∀ k, k ≠ s.sp → t.stack[k]? = s.stack[k]?)

/-- R32, R33, R236: DT is changed by FX15 alone and ST by FX18 alone among the instructions; no step ticks a
timer. -/
def Obligations.TimerWritersAreListed : Prop :=
  ∀ (i : Instr) (s t : State), exec i s = .next t →
    (t.dt = s.dt ∨ ∃ x, i = .ldDtVx x) ∧ (t.st = s.st ∨ ∃ x, i = .ldStVx x)

/-- R35, R36 (D24): only 00E0 and DXYN change the display or the dirty flag, and dirty is never cleared by an
instruction. -/
def Obligations.DisplayWritersAreListed : Prop :=
  ∀ (i : Instr) (s t : State), exec i s = .next t →
    ((t.screen = s.screen ∧ t.dirty = s.dirty) ∨ i = .cls ∨ ∃ x y n, i = .drw x y n) ∧
    (s.dirty = true → t.dirty = true)

/-- R54: the bytes FX33 and FX55 store to are I, I+1, I+2 and I..I+X; every other byte, and every byte for
every other instruction, reads as before. -/
def Obligations.MemoryWritersAreListed : Prop :=
  ∀ (i : Instr) (s t : State) (a : Nat), Memory.wf (resetByte s.cfg) s.mem = true → exec i s = .next t →
    ¬ ((i.storeRange s).1 ≤ a ∧ a < (i.storeRange s).1 + (i.storeRange s).2) → t.peek a = s.peek a

/-- R34, R6, R37: no instruction changes the keys or the configuration, and runState changes only by FX0A or
an error. -/
def Obligations.KeysAndRunStateFrame : Prop :=
  ∀ (i : Instr) (s t : State), exec i s = .next t →
    t.keys = s.keys ∧ t.cfg = s.cfg ∧
    (t.runState = s.runState ∨ (∃ x, i = .ldVxK x ∧ t.runState = .waitingForKey x) ∨
      ∃ e, i.errorAt s = some e ∧ t.runState = .halted e)

/-- R27: the next PC of every instruction; unchanged where it raises an error. -/
def Obligations.NextPcIsAsListed : Prop :=
  ∀ (i : Instr) (s t : State), exec i s = .next t →
    t.pc = if (i.errorAt s).isSome then s.pc else i.nextPc s

/-- R220, R222, R206: every instruction whose check holds completes without an error (FX0A by starting its
wait); every other one takes exactly its listed error, with nothing written (D11, D13). -/
def Obligations.InstructionCompletesOrTakesItsError : Prop :=
  ∀ (i : Instr) (s : State),
    (∀ e, i.errorAt s = some e → exec i s = .next { s with runState := .halted e }) ∧
    (i.errorAt s = none → ∃ t, exec i s = .next t ∧
      t.runState = (match i with | .ldVxK x => .waitingForKey x | _ => s.runState))

/-- R33, R36, R30: no step reads ST, the dirty flag or a stack entry at or above SP: changing one of them
changes nothing else of what the step does. -/
def Obligations.StepDoesNotReadSoundTimerOrDirty : Prop :=
  ∀ (s t : State) (b : Byte) (c : Bool), step s = .next t →
    ∃ u, step { s with st := b, dirty := c } = .next u ∧ u = { t with st := u.st, dirty := u.dirty } ∧
      (u.st = b ∨ u.st = t.st) ∧ (u.dirty = c ∨ u.dirty = t.dirty)

/-- R30: "Entries at index >= SP keep their last value and no instruction reads them": two states that agree
but for such entries step to states that agree but for such entries. -/
def Obligations.StepDoesNotReadDeadStackEntries : Prop :=
  ∀ (s t : State) (q : List Word), q.length = s.stack.length → (∀ k, k < s.sp → q[k]? = s.stack[k]?) →
    s.sp ≤ s.stack.length → step s = .next t →
    ∃ u, step { s with stack := q } = .next u ∧ u = { t with stack := u.stack } ∧
      u.stack.length = t.stack.length ∧ ∀ k, k < t.sp → u.stack[k]? = t.stack[k]?

/-! ### Registers and arithmetic -/

/-- R132, R133, R134: LD Vx, byte; ADD Vx, byte (mod 256, no flag); LD Vx, Vy. -/
def Obligations.LoadAddImmediateAndCopy : Prop :=
  ∀ (s : State) (x y : Reg) (nn : Byte),
    (∃ t, exec (.ldImm x nn) s = .next t ∧ t.reg x = nn ∧ t.pc = s.pc + 2#16 ∧ OnlyRegs s t (· = x)) ∧
    (∃ t, exec (.addImm x nn) s = .next t ∧ (t.reg x).toNat = ((s.reg x).toNat + nn.toNat) % 256 ∧
      t.pc = s.pc + 2#16 ∧ OnlyRegs s t (· = x)) ∧
    (∃ t, exec (.ldReg x y) s = .next t ∧ t.reg x = s.reg y ∧ t.pc = s.pc + 2#16 ∧ OnlyRegs s t (· = x))

/-- R135, R136, R137 (VF untouched unless X = F by D18): OR, AND, XOR, bit by bit. -/
def Obligations.LogicInstructions : Prop :=
  ∀ (s : State) (x y : Reg),
    (∃ t, exec (.orReg x y) s = .next t ∧ t.pc = s.pc + 2#16 ∧ OnlyRegs s t (· = x) ∧
      ∀ k, (t.reg x).getLsbD k = ((s.reg x).getLsbD k || (s.reg y).getLsbD k)) ∧
    (∃ t, exec (.andReg x y) s = .next t ∧ t.pc = s.pc + 2#16 ∧ OnlyRegs s t (· = x) ∧
      ∀ k, (t.reg x).getLsbD k = ((s.reg x).getLsbD k && (s.reg y).getLsbD k)) ∧
    (∃ t, exec (.xorReg x y) s = .next t ∧ t.pc = s.pc + 2#16 ∧ OnlyRegs s t (· = x) ∧
      ∀ k, (t.reg x).getLsbD k = ((s.reg x).getLsbD k ^^ (s.reg y).getLsbD k))

/-- R138: VX := (VX + VY) mod 256 and VF := 1 if the sum is over 255 else 0. That VF is written last, and so
holds the flag when X = F, is R131's resolution of 90_conflicts.md C3 (log entry 31, DEDUCED). -/
def Obligations.AddRegistersWithCarry : Prop :=
  ∀ (s : State) (x y : Reg), ∃ t, exec (.addReg x y) s = .next t ∧
    t.reg regF = (if (s.reg x).toNat + (s.reg y).toNat > 255 then 1#8 else 0#8) ∧
    (x ≠ regF → (t.reg x).toNat = ((s.reg x).toNat + (s.reg y).toNat) % 256) ∧
    t.pc = s.pc + 2#16 ∧ OnlyRegs s t (fun r => r = x ∨ r = regF)

/-- R139: VX := (VX - VY) mod 256 and VF := 0 if VY > VX else 1. That VF is written last, and so holds the flag
when X = F, is R131's resolution of 90_conflicts.md C3 (log entry 31, DEDUCED). -/
def Obligations.SubtractWithNotBorrow : Prop :=
  ∀ (s : State) (x y : Reg), ∃ t, exec (.sub x y) s = .next t ∧
    t.reg regF = (if (s.reg y).toNat > (s.reg x).toNat then 0#8 else 1#8) ∧
    (x ≠ regF → (t.reg x).toNat = ((s.reg x).toNat + 256 - (s.reg y).toNat) % 256) ∧
    t.pc = s.pc + 2#16 ∧ OnlyRegs s t (fun r => r = x ∨ r = regF)

/-- R141: VX := (VY - VX) mod 256 and VF := 0 if VX > VY else 1 (the borrow is derived there). That VF is written
last, and so holds the flag when X = F, is R131's resolution of 90_conflicts.md C3 (log entry 31, DEDUCED). -/
def Obligations.ReverseSubtractWithNotBorrow : Prop :=
  ∀ (s : State) (x y : Reg), ∃ t, exec (.subn x y) s = .next t ∧
    t.reg regF = (if (s.reg x).toNat > (s.reg y).toNat then 0#8 else 1#8) ∧
    (x ≠ regF → (t.reg x).toNat = ((s.reg y).toNat + 256 - (s.reg x).toNat) % 256) ∧
    t.pc = s.pc + 2#16 ∧ OnlyRegs s t (fun r => r = x ∨ r = regF)

/-- R140, R142: SHR and SHL by one bit of the source SHIFT_SOURCE chooses, the bit shifted out to VF. That VF is
written last, and so holds that bit when X = F, is R131's resolution of 90_conflicts.md C3 (log entry 31,
DEDUCED). -/
def Obligations.ShiftsByOneBit : Prop :=
  ∀ (s : State) (x y : Reg) (v : Nat),
    v = (match s.cfg.shiftSource with | .vy => (s.reg y).toNat | .vx => (s.reg x).toNat) →
    (∃ t, exec (.shr x y) s = .next t ∧ (t.reg regF).toNat = v % 2 ∧
      (x ≠ regF → (t.reg x).toNat = v / 2) ∧
      t.pc = s.pc + 2#16 ∧ OnlyRegs s t (fun r => r = x ∨ r = regF)) ∧
    (∃ t, exec (.shl x y) s = .next t ∧ (t.reg regF).toNat = v / 128 ∧
      (x ≠ regF → (t.reg x).toNat = 2 * v % 256) ∧
      t.pc = s.pc + 2#16 ∧ OnlyRegs s t (fun r => r = x ∨ r = regF))

/-- R143 (D6): RND writes the drawn byte AND NN, so a bit NN does not have is 0 whatever is drawn; one draw is
used up. The byte is the model's free value (log entry 3). -/
def Obligations.RandomByteIsMasked : Prop :=
  ∀ (s : State) (x : Reg) (nn : Byte), ∃ t, exec (.rnd x nn) s = .next t ∧
    (∀ k, (t.reg x).getLsbD k = ((Config.randomByte s.draws).getLsbD k && nn.getLsbD k)) ∧
    (nn = 0#8 → t.reg x = 0#8) ∧ t.pc = s.pc + 2#16 ∧ (∀ r, r ≠ x → t.reg r = s.reg r) ∧
    t = { s with v := t.v, pc := t.pc, draws := s.draws + 1 }

/-! ### Control flow -/

/-- R113 to R116: the register skips pass over the next instruction exactly when their condition holds, and
write nothing but PC. -/
def Obligations.RegisterSkips : Prop :=
  ∀ (s : State) (x y : Reg) (nn : Byte),
    exec (.seImm x nn) s = .next { s with pc := if s.reg x = nn then s.pc + 4#16 else s.pc + 2#16 } ∧
    exec (.sneImm x nn) s = .next { s with pc := if s.reg x ≠ nn then s.pc + 4#16 else s.pc + 2#16 } ∧
    exec (.seReg x y) s = .next { s with pc := if s.reg x = s.reg y then s.pc + 4#16 else s.pc + 2#16 } ∧
    exec (.sneReg x y) s = .next { s with pc := if s.reg x ≠ s.reg y then s.pc + 4#16 else s.pc + 2#16 }

/-- R111, R117: JP goes to NNN and JP V0 to NNN + V0, never wrapped; nothing else changes. -/
def Obligations.JumpTargets : Prop :=
  ∀ (s : State) (nnn : Addr12),
    (∃ t, exec (.jp nnn) s = .next t ∧ t.pc.toNat = nnn.toNat ∧ t = { s with pc := t.pc }) ∧
    (∃ t, exec (.jpV0 nnn) s = .next t ∧ t.pc.toNat = nnn.toNat + (s.reg 0).toNat ∧ t = { s with pc := t.pc })

/-- R112 (the pushed value by D7): CALL with room pushes PC + 2 at the old SP and goes to NNN. -/
def Obligations.CallPushesReturnAddress : Prop :=
  ∀ (s : State) (nnn : Addr12), s.sp < s.cfg.stackCapacity → s.stack.length = s.cfg.stackCapacity →
    ∃ t, exec (.call nnn) s = .next t ∧ t.stack[s.sp]? = some (s.pc + 2#16) ∧
      (∀ k, k ≠ s.sp → t.stack[k]? = s.stack[k]?) ∧ t.sp = s.sp + 1 ∧ t.pc.toNat = nnn.toNat ∧
      t = { s with stack := t.stack, sp := t.sp, pc := t.pc }

/-- R110 (no advance after the pop by D7): RET with entries in use goes to the popped entry, which keeps its
value. -/
def Obligations.ReturnPopsIntoPc : Prop :=
  ∀ (s : State) (a : Word), 0 < s.sp → s.stack[s.sp - 1]? = some a →
    exec .ret s = .next { s with sp := s.sp - 1, pc := a }

/-- R112, R110 with 90_conflicts.md C6 (D7): 2NNN then, once the stack is as the CALL left it, 00EE restores
PC to the instruction immediately after the original 2NNN, and SP. -/
def Obligations.CallThenReturnResumes : Prop :=
  ∀ (s : State) (nnn : Addr12), s.sp < s.cfg.stackCapacity → s.stack.length = s.cfg.stackCapacity →
    ∃ t, exec (.call nnn) s = .next t ∧ ∀ u : State, u.stack = t.stack → u.sp = t.sp →
      ∃ r, exec .ret u = .next r ∧ r.pc = s.pc + 2#16 ∧ r.sp = s.sp ∧ r = { u with pc := r.pc, sp := r.sp }

/-! ### The index register and memory -/

/-- R160: LD I, addr. -/
def Obligations.LoadIndex : Prop :=
  ∀ (s : State) (nnn : Addr12), ∃ t, exec (.ldI nnn) s = .next t ∧ t.i.toNat = nnn.toNat ∧
    t.pc = s.pc + 2#16 ∧ t = { s with i := t.i, pc := t.pc }

/-- R161 (D16), R162 (D4): ADD I, Vx mod 65536 with no flag; LD F, Vx points I at the glyph of VX's low
nibble, for every FONT_BASE the parameter admits. -/
def Obligations.IndexArithmetic : Prop :=
  ∀ (s : State) (x : Reg),
    (∃ t, exec (.addI x) s = .next t ∧ t.i.toNat = (s.i.toNat + (s.reg x).toNat) % 65536 ∧
      t.pc = s.pc + 2#16 ∧ t = { s with i := t.i, pc := t.pc }) ∧
    (s.cfg.fontBase + 80 ≤ 0x200 →
      ∃ t, exec (.ldF x) s = .next t ∧ t.i.toNat = s.cfg.fontBase + 5 * ((s.reg x).toNat % 16) ∧
        t.pc = s.pc + 2#16 ∧ t = { s with i := t.i, pc := t.pc })

/-- R163 (hundreds first by D21, precise by D11): LD B stores three decimal digits whose value is VX at I,
I+1, I+2, and no other byte or register changes. -/
def Obligations.BcdStoresThreeDigits : Prop :=
  ∀ (s : State) (x : Reg), Memory.wf (resetByte s.cfg) s.mem = true → s.i.toNat + 2 ≤ 4095 →
    ∃ t, exec (.ldB x) s = .next t ∧
      (t.peek s.i.toNat).toNat * 100 + (t.peek (s.i.toNat + 1)).toNat * 10 + (t.peek (s.i.toNat + 2)).toNat
        = (s.reg x).toNat ∧
      (t.peek s.i.toNat).toNat ≤ 2 ∧ (t.peek (s.i.toNat + 1)).toNat ≤ 9 ∧
      (t.peek (s.i.toNat + 2)).toNat ≤ 9 ∧
      (∀ a, a < s.i.toNat ∨ s.i.toNat + 2 < a → t.peek a = s.peek a) ∧
      t.pc = s.pc + 2#16 ∧ t = { s with mem := t.mem, pc := t.pc }

/-- R164 (I unchanged by D17): LD [I], Vx stores V0..VX at I..I+X, and no other byte or register changes. -/
def Obligations.StoreRegisters : Prop :=
  ∀ (s : State) (x : Reg), Memory.wf (resetByte s.cfg) s.mem = true → s.i.toNat + x.val ≤ 4095 →
    ∃ t, exec (.stRegs x) s = .next t ∧
      (∀ r : Reg, r.val ≤ x.val → t.peek (s.i.toNat + r.val) = s.reg r) ∧
      (∀ a, a < s.i.toNat ∨ s.i.toNat + x.val < a → t.peek a = s.peek a) ∧
      t.pc = s.pc + 2#16 ∧ t = { s with mem := t.mem, pc := t.pc }

/-- R165 (I unchanged by D17): LD Vx, [I] loads V0..VX from I..I+X, and no other register changes. -/
def Obligations.LoadRegisters : Prop :=
  ∀ (s : State) (x : Reg), s.i.toNat + x.val ≤ 4095 →
    ∃ t, exec (.ldRegs x) s = .next t ∧
      (∀ r : Reg, r.val ≤ x.val → t.reg r = s.peek (s.i.toNat + r.val)) ∧
      t.pc = s.pc + 2#16 ∧ OnlyRegs s t (fun r => r.val ≤ x.val)

/-- R164, R165, R63: registers stored by FX55 are loaded back by FX65, whatever happened to the registers and
PC in between. -/
def Obligations.StoreThenLoadRestoresRegisters : Prop :=
  ∀ (s : State) (x : Reg), Memory.wf (resetByte s.cfg) s.mem = true → s.i.toNat + x.val ≤ 4095 →
    ∃ t, exec (.stRegs x) s = .next t ∧ ∀ (w : Vector Byte 16) (p : Word),
      ∃ u, exec (.ldRegs x) { t with v := w, pc := p } = .next u ∧
        ∀ r : Reg, r.val ≤ x.val → u.reg r = s.reg r

/-- R67 (D38): a store into the next instruction's word is what the very next step decodes. -/
def Obligations.StoreIsSeenByTheNextFetch : Prop :=
  ∀ (s : State) (x : Reg) (i : Instr), Memory.wf (resetByte s.cfg) s.mem = true → s.runState = .running →
    1 ≤ x.val → s.i = s.pc + 2#16 → s.i.toNat + x.val ≤ 4095 →
    decode (s.reg 0 ++ s.reg 1) = some i →
    ∃ t, exec (.stRegs x) s = .next t ∧ step t = exec i t

/-! ### The display -/

/-- R180 (dirty by D24), R239: 00E0 followed by a framebuffer read yields an all-false grid. -/
def Obligations.ClearScreen : Prop :=
  ∀ s : State, ∃ t, exec .cls s = .next t ∧ (∀ y x, t.framebuffer.pixel y x = false) ∧ t.isDirty = true ∧
    t.pc = s.pc + 2#16 ∧ t = { s with screen := t.screen, dirty := t.dirty, pc := t.pc }

/-- R181 to R185 (bit order by D20, VF = 0 and N = 0 by D19, dirty by D24): the loop of DXYN is the pointwise
XOR with the sprite's pixels, wrapped mod 64 and mod 32, and VF says whether a pixel that was on is covered.
That columns wrap mod 64 is the resolution of 90_conflicts.md C5 (log entry 31, DEDUCED). -/
def Obligations.DrawIsPointwiseXor : Prop :=
  ∀ (s : State) (x y : Reg) (n : Fin 16) (bytes : List Byte),
    (n.val = 0 ∨ s.i.toNat + n.val ≤ 4096) →
    bytes = (List.range n.val).map (fun r => s.peek (s.i.toNat + r)) →
    ∃ t, exec (.drw x y n) s = .next t ∧
      (∀ py px, (t.screen.pixel py px ≠ s.screen.pixel py px ↔
        SpriteCovers bytes (s.reg y).toNat (s.reg x).toNat py px)) ∧
      (t.reg regF = 1#8 ↔ ∃ py px, SpriteCovers bytes (s.reg y).toNat (s.reg x).toNat py px ∧
        s.screen.pixel py px = true) ∧
      (t.reg regF = 1#8 ∨ t.reg regF = 0#8) ∧ (∀ r, r ≠ regF → t.reg r = s.reg r) ∧
      t.dirty = true ∧ t.pc = s.pc + 2#16 ∧
      t = { s with v := t.v, screen := t.screen, dirty := t.dirty, pc := t.pc }

/-- R185 (XOR is self-inverse, derived there): drawing the same sprite twice at the same place restores the
display, and the second collision flag is 1 exactly when a 1 bit landed on a pixel that was false before the
first. VF is not a coordinate register, or the first draw would move the second. That columns wrap mod 64 is the
resolution of 90_conflicts.md C5 (log entry 31, DEDUCED); bit order and VF = 0 are D20 and D19. -/
def Obligations.DrawTwiceRestoresTheScreen : Prop :=
  ∀ (s : State) (x y : Reg) (n : Fin 16) (bytes : List Byte), x ≠ regF → y ≠ regF →
    (n.val = 0 ∨ s.i.toNat + n.val ≤ 4096) →
    bytes = (List.range n.val).map (fun r => s.peek (s.i.toNat + r)) →
    ∃ t u, exec (.drw x y n) s = .next t ∧ exec (.drw x y n) t = .next u ∧ u.screen = s.screen ∧
      (u.reg regF = 1#8 ↔ ∃ py px, SpriteCovers bytes (s.reg y).toNat (s.reg x).toNat py px ∧
        s.screen.pixel py px = false)

/-! ### Keys and timers -/

/-- R200, R201, R202 (a free answer where no key exists by D22; log entry 3): SKP and SKNP test key VX and
write only PC; where VX > 15 exactly one draw is used up and either outcome may follow. -/
def Obligations.KeySkips : Prop :=
  ∀ (s : State) (x : Reg),
    (∀ k : Fin 16, (s.reg x).toNat = k.val →
      exec (.skp x) s = .next { s with pc := if s.keys[k.val] = true then s.pc + 4#16 else s.pc + 2#16 } ∧
      exec (.sknp x) s = .next { s with pc := if s.keys[k.val] = false then s.pc + 4#16 else s.pc + 2#16 }) ∧
    (15 < (s.reg x).toNat →
      (∃ t, exec (.skp x) s = .next t ∧ (t.pc = s.pc + 4#16 ∨ t.pc = s.pc + 2#16) ∧
        t = { s with pc := t.pc, draws := s.draws + 1 }) ∧
      (∃ t, exec (.sknp x) s = .next t ∧ (t.pc = s.pc + 4#16 ∨ t.pc = s.pc + 2#16) ∧
        t = { s with pc := t.pc, draws := s.draws + 1 }))

/-- R205, R210, R211: FX07 reads DT, FX15 writes DT, FX18 writes ST and so the beep output, which a value of 1
keeps on until the next tick. -/
def Obligations.TimerInstructions : Prop :=
  ∀ (s : State) (x : Reg),
    (∃ t, exec (.ldVxDt x) s = .next t ∧ t.reg x = s.dt ∧ t.pc = s.pc + 2#16 ∧ OnlyRegs s t (· = x)) ∧
    (∃ t, exec (.ldDtVx x) s = .next t ∧ t.dt = s.reg x ∧ t = { s with dt := t.dt, pc := s.pc + 2#16 }) ∧
    (∃ t, exec (.ldStVx x) s = .next t ∧ t.st = s.reg x ∧ t = { s with st := t.st, pc := s.pc + 2#16 } ∧
      (t.isBeeping = true ↔ s.reg x ≠ 0#8) ∧ (s.reg x = 1#8 → t.tickTimers.isBeeping = false))

/-- R206 with R208, R209 (D23, D37): FX0A starts the wait and keeps PC and VX; then any number of steps
change nothing, and a key press stores the key in VX, moves PC past the FX0A and resumes. -/
def Obligations.KeyWaitThenPress : Prop :=
  ∀ (s : State) (x : Reg) (k : Fin 16) (n : Nat),
    ∃ t u, exec (.ldVxK x) s = .next t ∧ t = { s with runState := .waitingForKey x } ∧
      t.runOps (List.replicate n .step) = t ∧ t.setKey k.val true = some u ∧
      (u.reg x).toNat = k.val ∧ (∀ r, r ≠ x → u.reg r = s.reg r) ∧ u.pc = s.pc + 2#16 ∧
      u.runState = .running ∧ u.keys[k.val] = true ∧ (∀ j : Fin 16, j ≠ k → u.keys[j.val] = s.keys[j.val]) ∧
      u = { s with v := u.v, pc := u.pc, runState := u.runState, keys := u.keys }

/-- R238, R208 (D14, D31): a key call writes its key; without a press to end a wait it changes nothing else;
a key number of 16 or more is refused. -/
def Obligations.KeyCallsOutsideAPress : Prop :=
  ∀ (s : State) (k : Nat) (p : Bool),
    (16 ≤ k → s.setKey k p = none) ∧
    (∀ h : k < 16, (p = false ∨ ∀ x, s.runState ≠ .waitingForKey x) →
      s.setKey k p = some { s with keys := s.keys.set k p h })

/-- R234: one tick takes one from each timer that is not 0. -/
def Obligations.TickDecrementsEachTimer : Prop :=
  ∀ s : State, s.tickTimers.dt.toNat = s.dt.toNat - 1 ∧ s.tickTimers.st.toNat = s.st.toNat - 1 ∧
    s.tickTimers = { s with dt := s.tickTimers.dt, st := s.tickTimers.st }

/-- R234, R32, R235 (D14): n ticks take n from each timer, which stops at 0, in every run state, and change
nothing else. -/
def Obligations.RepeatedTicksStopAtZero : Prop :=
  ∀ (s : State) (n : Nat) (t : State), t = s.runOps (List.replicate n .tickTimers) →
    t.dt.toNat = s.dt.toNat - n ∧ t.st.toNat = s.st.toNat - n ∧ t = { s with dt := t.dt, st := t.st }

/-! ### Initialisation -/

/-- R40, R264 (the rows of D26 among them): every register, timer, stack entry, pixel, key and flag right after
new, for every configuration in range and every ROM new accepts, and the same for the state right after reset,
with the reference parameters (log entry 2). -/
def Obligations.ResetValues : Prop :=
  (∀ (c : Config) (rom : List Byte) (s : State), c.wf = true → State.new c rom = .ok s → InitialValues c s) ∧
  InitialValues referenceConfig State.reset ∧ State.reset.pc = 0x200#16 ∧ State.reset.stack.length = 16

/-- R260 to R262 (D25, D34): new accepts a ROM up to the capacity and gives the reset state with the ROM at
PROGRAM_ORIGIN, the font at FONT_BASE and 0 elsewhere. -/
def Obligations.NewInstanceMemory : Prop :=
  ∀ (c : Config) (rom : List Byte), c.wf = true → rom.length ≤ 4096 - c.programOrigin.addr →
    ∃ s, State.new c rom = .ok s ∧
      (∀ j, j < rom.length → some (s.peek (c.programOrigin.addr + j)) = rom[j]?) ∧
      (∀ j, j < 80 → some (s.peek (c.fontBase + j)) = c.fontData[j]?) ∧
      (∀ a, ¬ (c.programOrigin.addr ≤ a ∧ a < c.programOrigin.addr + rom.length) →
        ¬ (c.fontBase ≤ a ∧ a < c.fontBase + 80) → s.peek a = 0#8) ∧
      s.pc.toNat = c.programOrigin.addr ∧ s = { State.initial c with mem := s.mem }

/-- R261: new fails exactly when the ROM exceeds 4096 - origin bytes, with the two sizes. That it does so for a
configuration outside R6's ranges as well, which new does not check, is the model's choice (log entry 34,
DESIGN CHOICE). -/
def Obligations.NewRejectsExactlyLargeRoms : Prop :=
  ∀ (c : Config) (rom : List Byte) (e : CoreError),
    State.new c rom = .error e ↔
      4096 - c.programOrigin.addr < rom.length ∧ e = .romTooLarge rom.length (4096 - c.programOrigin.addr)

/-! ### The invariant -/

/-- The invariant holds right after reset. -/
def Obligations.ResetMeetsTheInvariant : Prop := State.reset.Inv

/-- R260 to R262: every instance that new makes meets the invariant. -/
def Obligations.NewMeetsTheInvariant : Prop :=
  ∀ (c : Config) (rom : List Byte) (s : State), c.wf = true → State.new c rom = .ok s → s.Inv

/-- R28, R30, R220, R226: from every state that meets the invariant, a step gives one that does: memory stays
canonical, SP within the capacity, PC at most 0x10FE, error records truthful. -/
def Obligations.StepKeepsTheInvariant : Prop := ∀ s t : State, s.Inv → step s = .next t → t.Inv

/-- R236: so does every sequence of the host's transactions, in any order. -/
def Obligations.HostTransactionsKeepTheInvariant : Prop :=
  ∀ (s : State) (ops : List HostOp), s.Inv → (s.runOps ops).Inv

/-! ### The host's outputs -/

/-- R240, R36 (D24), with R239, R233: clear_dirty leaves dirty false and everything else as it was; the output
reads give G, ST != 0 and dirty, and change nothing. -/
def Obligations.OutputsAndClearDirty : Prop :=
  ∀ s : State,
    s.apply .clearDirty = { s with dirty := false } ∧ (s.apply .clearDirty).isDirty = false ∧
    (s.isDirty = true ↔ s.dirty = true) ∧ (s.isBeeping = true ↔ 0 < s.st.toNat) ∧
    (∀ y x, s.framebuffer.pixel y x = s.screen.pixel y x) ∧
    s.apply .framebuffer = s ∧ s.apply .isBeeping = s ∧ s.apply .isDirty = s
end

