-- ==== Sys2Proof/Laws/Decode.lean ====
section
/-! SUPPORT. The fields of a word put together from fields, and a word put together again from its fields,
all through the words' numeric values. -/

namespace Sys2Proof

/-! ### A nibble as a number and as bits -/

theorem nibbleIndex_field (r : Fin 16) : nibbleIndex (nibbleField r) = r := by
  apply Fin.ext
  simp [nibbleIndex, nibbleField]

theorem nibbleField_index (b : BitVec 4) : nibbleField (nibbleIndex b) = b := by
  simp [nibbleIndex, nibbleField]

theorem nibbleField_toNat (r : Fin 16) : (nibbleField r).toNat = r.val := by
  simp [nibbleField]

theorem nibbleField_inj {a b : Fin 16} (h : nibbleField a = nibbleField b) : a = b := by
  rw [← nibbleIndex_field a, h, nibbleIndex_field]

/-! ### Numeric values -/

/-- `a ++ b` has `a` in the high bits (R8). -/
theorem append_toNat {m n : Nat} (a : BitVec m) (b : BitVec n) :
    (a ++ b).toNat = a.toNat * 2 ^ n + b.toNat := by
  rw [BitVec.toNat_append, ← Nat.shiftLeft_add_eq_or_of_lt b.isLt, Nat.shiftLeft_eq]

theorem wordXYN_toNat (g : BitVec 4) (x y : Reg) (n : BitVec 4) :
    (wordXYN g x y n).toNat = g.toNat * 4096 + x.val * 256 + y.val * 16 + n.toNat := by
  unfold wordXYN
  rw [append_toNat, append_toNat, append_toNat, nibbleField_toNat, nibbleField_toNat]
  omega

theorem wordXNN_toNat (g : BitVec 4) (x : Reg) (nn : Byte) :
    (wordXNN g x nn).toNat = g.toNat * 4096 + x.val * 256 + nn.toNat := by
  unfold wordXNN
  rw [append_toNat, append_toNat, nibbleField_toNat]
  omega

theorem wordNNN_toNat (g : BitVec 4) (nnn : Addr12) :
    (wordNNN g nnn).toNat = g.toNat * 4096 + nnn.toNat := by
  unfold wordNNN
  rw [append_toNat]
  omega

theorem wordOfBytes_toNat (hi lo : Byte) : (wordOfBytes hi lo).toNat = hi.toNat * 256 + lo.toNat := by
  unfold wordOfBytes
  rw [append_toNat]
  omega

theorem opGroup_toNat (w : Word) : (opGroup w).toNat = w.toNat / 4096 := by
  have := w.isLt
  simp only [opGroup, BitVec.extractLsb'_toNat, Nat.shiftRight_eq_div_pow]
  omega

theorem opX_toNat (w : Word) : (opX w).toNat = w.toNat / 256 % 16 := by
  simp only [opX, BitVec.extractLsb'_toNat, Nat.shiftRight_eq_div_pow]

theorem opY_toNat (w : Word) : (opY w).toNat = w.toNat / 16 % 16 := by
  simp only [opY, BitVec.extractLsb'_toNat, Nat.shiftRight_eq_div_pow]

theorem opN_toNat (w : Word) : (opN w).toNat = w.toNat % 16 := by
  simp only [opN, BitVec.extractLsb'_toNat, Nat.shiftRight_eq_div_pow]
  omega

theorem opNN_toNat (w : Word) : (opNN w).toNat = w.toNat % 256 := by
  simp only [opNN, BitVec.extractLsb'_toNat, Nat.shiftRight_eq_div_pow]
  omega

theorem opNNN_toNat (w : Word) : (opNNN w).toNat = w.toNat % 4096 := by
  simp only [opNNN, BitVec.extractLsb'_toNat, Nat.shiftRight_eq_div_pow]
  omega

theorem highByte_toNat (w : Word) : (highByte w).toNat = w.toNat / 256 := by
  have := w.isLt
  simp only [highByte, BitVec.extractLsb'_toNat, Nat.shiftRight_eq_div_pow]
  omega

theorem lowByte_toNat (w : Word) : (lowByte w).toNat = w.toNat % 256 := by
  simp only [lowByte, BitVec.extractLsb'_toNat, Nat.shiftRight_eq_div_pow]
  omega

/-- The two bytes of a word put together again are the word (R59). -/
theorem wordOfBytes_high_low (w : Word) : wordOfBytes (highByte w) (lowByte w) = w := by
  apply BitVec.eq_of_toNat_eq
  rw [wordOfBytes_toNat, highByte_toNat, lowByte_toNat]
  omega

/-! ### Fields of a composed word -/

section Fields

variable (g n : BitVec 4) (x y : Reg) (nn : Byte) (nnn : Addr12)

theorem opGroup_wordXYN : opGroup (wordXYN g x y n) = g := by
  apply BitVec.eq_of_toNat_eq
  rw [opGroup_toNat, wordXYN_toNat]
  have := g.isLt; have := n.isLt; have := x.isLt; have := y.isLt
  omega

theorem opX_wordXYN : opX (wordXYN g x y n) = nibbleField x := by
  apply BitVec.eq_of_toNat_eq
  rw [opX_toNat, wordXYN_toNat, nibbleField_toNat]
  have := n.isLt; have := x.isLt; have := y.isLt
  omega

theorem opY_wordXYN : opY (wordXYN g x y n) = nibbleField y := by
  apply BitVec.eq_of_toNat_eq
  rw [opY_toNat, wordXYN_toNat, nibbleField_toNat]
  have := n.isLt; have := y.isLt
  omega

theorem opN_wordXYN : opN (wordXYN g x y n) = n := by
  apply BitVec.eq_of_toNat_eq
  rw [opN_toNat, wordXYN_toNat]
  have := n.isLt
  omega

theorem opGroup_wordXNN : opGroup (wordXNN g x nn) = g := by
  apply BitVec.eq_of_toNat_eq
  rw [opGroup_toNat, wordXNN_toNat]
  have := g.isLt; have := nn.isLt; have := x.isLt
  omega

theorem opX_wordXNN : opX (wordXNN g x nn) = nibbleField x := by
  apply BitVec.eq_of_toNat_eq
  rw [opX_toNat, wordXNN_toNat, nibbleField_toNat]
  have := nn.isLt; have := x.isLt
  omega

theorem opNN_wordXNN : opNN (wordXNN g x nn) = nn := by
  apply BitVec.eq_of_toNat_eq
  rw [opNN_toNat, wordXNN_toNat]
  have := nn.isLt
  omega

theorem opGroup_wordNNN : opGroup (wordNNN g nnn) = g := by
  apply BitVec.eq_of_toNat_eq
  rw [opGroup_toNat, wordNNN_toNat]
  have := g.isLt; have := nnn.isLt
  omega

theorem opNNN_wordNNN : opNNN (wordNNN g nnn) = nnn := by
  apply BitVec.eq_of_toNat_eq
  rw [opNNN_toNat, wordNNN_toNat]
  have := nnn.isLt
  omega

end Fields

/-! ### A word from its fields -/

theorem wordXYN_of_fields (w : Word) :
    wordXYN (opGroup w) (nibbleIndex (opX w)) (nibbleIndex (opY w)) (opN w) = w := by
  apply BitVec.eq_of_toNat_eq
  rw [wordXYN_toNat, nibbleIndex, nibbleIndex, opGroup_toNat, opN_toNat]
  simp only [opX_toNat, opY_toNat]
  omega

theorem wordXNN_of_fields (w : Word) : wordXNN (opGroup w) (nibbleIndex (opX w)) (opNN w) = w := by
  apply BitVec.eq_of_toNat_eq
  rw [wordXNN_toNat, nibbleIndex, opGroup_toNat, opNN_toNat]
  simp only [opX_toNat]
  omega

theorem wordNNN_of_fields (w : Word) : wordNNN (opGroup w) (opNNN w) = w := by
  apply BitVec.eq_of_toNat_eq
  rw [wordNNN_toNat, opGroup_toNat, opNNN_toNat]
  omega

/-! ### The decoder, group by group (R74) -/

theorem nibble_cases (g : BitVec 4) :
    g = 0x0#4 ∨ g = 0x1#4 ∨ g = 0x2#4 ∨ g = 0x3#4 ∨ g = 0x4#4 ∨ g = 0x5#4 ∨ g = 0x6#4 ∨ g = 0x7#4 ∨
    g = 0x8#4 ∨ g = 0x9#4 ∨ g = 0xA#4 ∨ g = 0xB#4 ∨ g = 0xC#4 ∨ g = 0xD#4 ∨ g = 0xE#4 ∨ g = 0xF#4 := by
  have := g.isLt
  simp only [← BitVec.toNat_inj, BitVec.toNat_ofNat]
  omega

section Groups

variable {w : Word}

theorem decode_group0 (h : opGroup w = 0x0#4) : decode w = decodeGroup0 w := by
  simp [decode, h]

theorem decode_group1 (h : opGroup w = 0x1#4) : decode w = some (.jp (opNNN w)) := by
  simp [decode, h]

theorem decode_group2 (h : opGroup w = 0x2#4) : decode w = some (.call (opNNN w)) := by
  simp [decode, h]

theorem decode_group3 (h : opGroup w = 0x3#4) : decode w = some (.seImm (nibbleIndex (opX w)) (opNN w)) := by
  simp [decode, h]

theorem decode_group4 (h : opGroup w = 0x4#4) : decode w = some (.sneImm (nibbleIndex (opX w)) (opNN w)) := by
  simp [decode, h]

theorem decode_group5 (h : opGroup w = 0x5#4) :
    decode w = if opN w = 0#4 then some (.seReg (nibbleIndex (opX w)) (nibbleIndex (opY w))) else none := by
  simp [decode, h]

theorem decode_group6 (h : opGroup w = 0x6#4) : decode w = some (.ldImm (nibbleIndex (opX w)) (opNN w)) := by
  simp [decode, h]

theorem decode_group7 (h : opGroup w = 0x7#4) : decode w = some (.addImm (nibbleIndex (opX w)) (opNN w)) := by
  simp [decode, h]

theorem decode_group8 (h : opGroup w = 0x8#4) :
    decode w = decodeGroup8 (opN w) (nibbleIndex (opX w)) (nibbleIndex (opY w)) := by
  simp [decode, h]

theorem decode_group9 (h : opGroup w = 0x9#4) :
    decode w = if opN w = 0#4 then some (.sneReg (nibbleIndex (opX w)) (nibbleIndex (opY w))) else none := by
  simp [decode, h]

theorem decode_groupA (h : opGroup w = 0xA#4) : decode w = some (.ldI (opNNN w)) := by
  simp [decode, h]

theorem decode_groupB (h : opGroup w = 0xB#4) : decode w = some (.jpV0 (opNNN w)) := by
  simp [decode, h]

theorem decode_groupC (h : opGroup w = 0xC#4) : decode w = some (.rnd (nibbleIndex (opX w)) (opNN w)) := by
  simp [decode, h]

theorem decode_groupD (h : opGroup w = 0xD#4) :
    decode w = some (.drw (nibbleIndex (opX w)) (nibbleIndex (opY w)) (nibbleIndex (opN w))) := by
  simp [decode, h]

theorem decode_groupE (h : opGroup w = 0xE#4) : decode w = decodeGroupE (opNN w) (nibbleIndex (opX w)) := by
  simp [decode, h]

theorem decode_groupF (h : opGroup w = 0xF#4) : decode w = decodeGroupF (opNN w) (nibbleIndex (opX w)) := by
  simp [decode, h]

end Groups

/-! ### Mask and match (R73) -/

theorem and_group_eq_iff (w v : Word) (hv : v &&& 0x0FFF#16 = 0#16) :
    w &&& 0xF000#16 = v ↔ opGroup w = opGroup v := by
  constructor
  · intro h
    rw [← h]
    ext k hk
    interval_cases k <;> simp [opGroup]
  · intro h
    ext k hk
    have lo : k < 12 → v[k] = false := fun lt => by
      have e := congrArg (·.getLsbD k) hv
      interval_cases k <;> simpa using e
    have hi : 12 ≤ k → w[k] = v[k] := fun le => by
      have e := congrArg (·.getLsbD (k - 12)) h
      interval_cases k <;> simpa [opGroup] using e
    interval_cases k <;> simp_all

theorem and_group_n_eq_iff (w v : Word) (hv : v &&& 0x0FF0#16 = 0#16) :
    w &&& 0xF00F#16 = v ↔ opGroup w = opGroup v ∧ opN w = opN v := by
  constructor
  · intro h
    rw [← h]
    constructor <;> (ext k hk; interval_cases k <;> simp [opGroup, opN])
  · rintro ⟨h, h'⟩
    ext k hk
    have mid : 4 ≤ k → k < 12 → v[k] = false := fun le lt => by
      have e := congrArg (·.getLsbD k) hv
      interval_cases k <;> simpa using e
    have hi : 12 ≤ k → w[k] = v[k] := fun le => by
      have e := congrArg (·.getLsbD (k - 12)) h
      interval_cases k <;> simpa [opGroup] using e
    have lo : k < 4 → w[k] = v[k] := fun lt => by
      have e := congrArg (·.getLsbD k) h'
      interval_cases k <;> simpa [opN] using e
    interval_cases k <;> simp_all

theorem and_group_nn_eq_iff (w v : Word) (hv : v &&& 0x0F00#16 = 0#16) :
    w &&& 0xF0FF#16 = v ↔ opGroup w = opGroup v ∧ opNN w = opNN v := by
  constructor
  · intro h
    rw [← h]
    constructor <;> (ext k hk; interval_cases k <;> simp [opGroup, opNN])
  · rintro ⟨h, h'⟩
    ext k hk
    have mid : 8 ≤ k → k < 12 → v[k] = false := fun le lt => by
      have e := congrArg (·.getLsbD k) hv
      interval_cases k <;> simpa using e
    have hi : 12 ≤ k → w[k] = v[k] := fun le => by
      have e := congrArg (·.getLsbD (k - 12)) h
      interval_cases k <;> simpa [opGroup] using e
    have lo : k < 8 → w[k] = v[k] := fun lt => by
      have e := congrArg (·.getLsbD k) h'
      interval_cases k <;> simpa [opNN] using e
    interval_cases k <;> simp_all

theorem and_ones_eq_iff (w v : Word) : w &&& 0xFFFF#16 = v ↔ w = v := by
  rw [show (0xFFFF#16 : Word) = BitVec.allOnes 16 from rfl, BitVec.and_allOnes]

end Sys2Proof
end

