-- ==== Sys2Proof/Laws/State.lean ====
section
/-! SUPPORT. One lemma per field per named update of the state, true by rfl, so that no later proof unfolds
a record update; and what each update does to one register and to one byte of memory. -/

namespace Sys2Proof.Machine

section Fields

variable (s : State)

/-! ### State.setReg -/

@[simp] theorem State.setReg_v (r : Reg) (b : Byte) : (s.setReg r b).v = s.v.set r.val b := rfl
@[simp] theorem State.setReg_i (r : Reg) (b : Byte) : (s.setReg r b).i = s.i := rfl
@[simp] theorem State.setReg_pc (r : Reg) (b : Byte) : (s.setReg r b).pc = s.pc := rfl
@[simp] theorem State.setReg_sp (r : Reg) (b : Byte) : (s.setReg r b).sp = s.sp := rfl
@[simp] theorem State.setReg_stack (r : Reg) (b : Byte) : (s.setReg r b).stack = s.stack := rfl
@[simp] theorem State.setReg_dt (r : Reg) (b : Byte) : (s.setReg r b).dt = s.dt := rfl
@[simp] theorem State.setReg_st (r : Reg) (b : Byte) : (s.setReg r b).st = s.st := rfl
@[simp] theorem State.setReg_mem (r : Reg) (b : Byte) : (s.setReg r b).mem = s.mem := rfl
@[simp] theorem State.setReg_screen (r : Reg) (b : Byte) : (s.setReg r b).screen = s.screen := rfl
@[simp] theorem State.setReg_dirty (r : Reg) (b : Byte) : (s.setReg r b).dirty = s.dirty := rfl
@[simp] theorem State.setReg_keys (r : Reg) (b : Byte) : (s.setReg r b).keys = s.keys := rfl
@[simp] theorem State.setReg_runState (r : Reg) (b : Byte) : (s.setReg r b).runState = s.runState := rfl
@[simp] theorem State.setReg_cfg (r : Reg) (b : Byte) : (s.setReg r b).cfg = s.cfg := rfl
@[simp] theorem State.setReg_draws (r : Reg) (b : Byte) : (s.setReg r b).draws = s.draws := rfl
@[simp] theorem State.setReg_peek (r : Reg) (b : Byte) (q : Nat) : (s.setReg r b).peek q = s.peek q := rfl

/-! ### State.setI -/

@[simp] theorem State.setI_v (w : Word) : (s.setI w).v = s.v := rfl
@[simp] theorem State.setI_i (w : Word) : (s.setI w).i = w := rfl
@[simp] theorem State.setI_pc (w : Word) : (s.setI w).pc = s.pc := rfl
@[simp] theorem State.setI_sp (w : Word) : (s.setI w).sp = s.sp := rfl
@[simp] theorem State.setI_stack (w : Word) : (s.setI w).stack = s.stack := rfl
@[simp] theorem State.setI_dt (w : Word) : (s.setI w).dt = s.dt := rfl
@[simp] theorem State.setI_st (w : Word) : (s.setI w).st = s.st := rfl
@[simp] theorem State.setI_mem (w : Word) : (s.setI w).mem = s.mem := rfl
@[simp] theorem State.setI_screen (w : Word) : (s.setI w).screen = s.screen := rfl
@[simp] theorem State.setI_dirty (w : Word) : (s.setI w).dirty = s.dirty := rfl
@[simp] theorem State.setI_keys (w : Word) : (s.setI w).keys = s.keys := rfl
@[simp] theorem State.setI_runState (w : Word) : (s.setI w).runState = s.runState := rfl
@[simp] theorem State.setI_cfg (w : Word) : (s.setI w).cfg = s.cfg := rfl
@[simp] theorem State.setI_draws (w : Word) : (s.setI w).draws = s.draws := rfl
@[simp] theorem State.setI_reg (w : Word) (q : Reg) : (s.setI w).reg q = s.reg q := rfl
@[simp] theorem State.setI_peek (w : Word) (q : Nat) : (s.setI w).peek q = s.peek q := rfl

/-! ### State.setDt -/

@[simp] theorem State.setDt_v (b : Byte) : (s.setDt b).v = s.v := rfl
@[simp] theorem State.setDt_i (b : Byte) : (s.setDt b).i = s.i := rfl
@[simp] theorem State.setDt_pc (b : Byte) : (s.setDt b).pc = s.pc := rfl
@[simp] theorem State.setDt_sp (b : Byte) : (s.setDt b).sp = s.sp := rfl
@[simp] theorem State.setDt_stack (b : Byte) : (s.setDt b).stack = s.stack := rfl
@[simp] theorem State.setDt_dt (b : Byte) : (s.setDt b).dt = b := rfl
@[simp] theorem State.setDt_st (b : Byte) : (s.setDt b).st = s.st := rfl
@[simp] theorem State.setDt_mem (b : Byte) : (s.setDt b).mem = s.mem := rfl
@[simp] theorem State.setDt_screen (b : Byte) : (s.setDt b).screen = s.screen := rfl
@[simp] theorem State.setDt_dirty (b : Byte) : (s.setDt b).dirty = s.dirty := rfl
@[simp] theorem State.setDt_keys (b : Byte) : (s.setDt b).keys = s.keys := rfl
@[simp] theorem State.setDt_runState (b : Byte) : (s.setDt b).runState = s.runState := rfl
@[simp] theorem State.setDt_cfg (b : Byte) : (s.setDt b).cfg = s.cfg := rfl
@[simp] theorem State.setDt_draws (b : Byte) : (s.setDt b).draws = s.draws := rfl
@[simp] theorem State.setDt_reg (b : Byte) (q : Reg) : (s.setDt b).reg q = s.reg q := rfl
@[simp] theorem State.setDt_peek (b : Byte) (q : Nat) : (s.setDt b).peek q = s.peek q := rfl

/-! ### State.setSt -/

@[simp] theorem State.setSt_v (b : Byte) : (s.setSt b).v = s.v := rfl
@[simp] theorem State.setSt_i (b : Byte) : (s.setSt b).i = s.i := rfl
@[simp] theorem State.setSt_pc (b : Byte) : (s.setSt b).pc = s.pc := rfl
@[simp] theorem State.setSt_sp (b : Byte) : (s.setSt b).sp = s.sp := rfl
@[simp] theorem State.setSt_stack (b : Byte) : (s.setSt b).stack = s.stack := rfl
@[simp] theorem State.setSt_dt (b : Byte) : (s.setSt b).dt = s.dt := rfl
@[simp] theorem State.setSt_st (b : Byte) : (s.setSt b).st = b := rfl
@[simp] theorem State.setSt_mem (b : Byte) : (s.setSt b).mem = s.mem := rfl
@[simp] theorem State.setSt_screen (b : Byte) : (s.setSt b).screen = s.screen := rfl
@[simp] theorem State.setSt_dirty (b : Byte) : (s.setSt b).dirty = s.dirty := rfl
@[simp] theorem State.setSt_keys (b : Byte) : (s.setSt b).keys = s.keys := rfl
@[simp] theorem State.setSt_runState (b : Byte) : (s.setSt b).runState = s.runState := rfl
@[simp] theorem State.setSt_cfg (b : Byte) : (s.setSt b).cfg = s.cfg := rfl
@[simp] theorem State.setSt_draws (b : Byte) : (s.setSt b).draws = s.draws := rfl
@[simp] theorem State.setSt_reg (b : Byte) (q : Reg) : (s.setSt b).reg q = s.reg q := rfl
@[simp] theorem State.setSt_peek (b : Byte) (q : Nat) : (s.setSt b).peek q = s.peek q := rfl

/-! ### State.setScreen -/

@[simp] theorem State.setScreen_v (g : Grid) : (s.setScreen g).v = s.v := rfl
@[simp] theorem State.setScreen_i (g : Grid) : (s.setScreen g).i = s.i := rfl
@[simp] theorem State.setScreen_pc (g : Grid) : (s.setScreen g).pc = s.pc := rfl
@[simp] theorem State.setScreen_sp (g : Grid) : (s.setScreen g).sp = s.sp := rfl
@[simp] theorem State.setScreen_stack (g : Grid) : (s.setScreen g).stack = s.stack := rfl
@[simp] theorem State.setScreen_dt (g : Grid) : (s.setScreen g).dt = s.dt := rfl
@[simp] theorem State.setScreen_st (g : Grid) : (s.setScreen g).st = s.st := rfl
@[simp] theorem State.setScreen_mem (g : Grid) : (s.setScreen g).mem = s.mem := rfl
@[simp] theorem State.setScreen_screen (g : Grid) : (s.setScreen g).screen = g := rfl
@[simp] theorem State.setScreen_dirty (g : Grid) : (s.setScreen g).dirty = true := rfl
@[simp] theorem State.setScreen_keys (g : Grid) : (s.setScreen g).keys = s.keys := rfl
@[simp] theorem State.setScreen_runState (g : Grid) : (s.setScreen g).runState = s.runState := rfl
@[simp] theorem State.setScreen_cfg (g : Grid) : (s.setScreen g).cfg = s.cfg := rfl
@[simp] theorem State.setScreen_draws (g : Grid) : (s.setScreen g).draws = s.draws := rfl
@[simp] theorem State.setScreen_reg (g : Grid) (q : Reg) : (s.setScreen g).reg q = s.reg q := rfl
@[simp] theorem State.setScreen_peek (g : Grid) (q : Nat) : (s.setScreen g).peek q = s.peek q := rfl

/-! ### State.setRunState -/

@[simp] theorem State.setRunState_v (r : RunState) : (s.setRunState r).v = s.v := rfl
@[simp] theorem State.setRunState_i (r : RunState) : (s.setRunState r).i = s.i := rfl
@[simp] theorem State.setRunState_pc (r : RunState) : (s.setRunState r).pc = s.pc := rfl
@[simp] theorem State.setRunState_sp (r : RunState) : (s.setRunState r).sp = s.sp := rfl
@[simp] theorem State.setRunState_stack (r : RunState) : (s.setRunState r).stack = s.stack := rfl
@[simp] theorem State.setRunState_dt (r : RunState) : (s.setRunState r).dt = s.dt := rfl
@[simp] theorem State.setRunState_st (r : RunState) : (s.setRunState r).st = s.st := rfl
@[simp] theorem State.setRunState_mem (r : RunState) : (s.setRunState r).mem = s.mem := rfl
@[simp] theorem State.setRunState_screen (r : RunState) : (s.setRunState r).screen = s.screen := rfl
@[simp] theorem State.setRunState_dirty (r : RunState) : (s.setRunState r).dirty = s.dirty := rfl
@[simp] theorem State.setRunState_keys (r : RunState) : (s.setRunState r).keys = s.keys := rfl
@[simp] theorem State.setRunState_runState (r : RunState) : (s.setRunState r).runState = r := rfl
@[simp] theorem State.setRunState_cfg (r : RunState) : (s.setRunState r).cfg = s.cfg := rfl
@[simp] theorem State.setRunState_draws (r : RunState) : (s.setRunState r).draws = s.draws := rfl
@[simp] theorem State.setRunState_reg (r : RunState) (q : Reg) : (s.setRunState r).reg q = s.reg q := rfl
@[simp] theorem State.setRunState_peek (r : RunState) (q : Nat) : (s.setRunState r).peek q = s.peek q := rfl

/-! ### State.writeKey -/

@[simp] theorem State.writeKey_v (k : Fin 16) (p : Bool) : (s.writeKey k p).v = s.v := rfl
@[simp] theorem State.writeKey_i (k : Fin 16) (p : Bool) : (s.writeKey k p).i = s.i := rfl
@[simp] theorem State.writeKey_pc (k : Fin 16) (p : Bool) : (s.writeKey k p).pc = s.pc := rfl
@[simp] theorem State.writeKey_sp (k : Fin 16) (p : Bool) : (s.writeKey k p).sp = s.sp := rfl
@[simp] theorem State.writeKey_stack (k : Fin 16) (p : Bool) : (s.writeKey k p).stack = s.stack := rfl
@[simp] theorem State.writeKey_dt (k : Fin 16) (p : Bool) : (s.writeKey k p).dt = s.dt := rfl
@[simp] theorem State.writeKey_st (k : Fin 16) (p : Bool) : (s.writeKey k p).st = s.st := rfl
@[simp] theorem State.writeKey_mem (k : Fin 16) (p : Bool) : (s.writeKey k p).mem = s.mem := rfl
@[simp] theorem State.writeKey_screen (k : Fin 16) (p : Bool) : (s.writeKey k p).screen = s.screen := rfl
@[simp] theorem State.writeKey_dirty (k : Fin 16) (p : Bool) : (s.writeKey k p).dirty = s.dirty := rfl
@[simp] theorem State.writeKey_keys (k : Fin 16) (p : Bool) : (s.writeKey k p).keys = s.keys.set k.val p := rfl
@[simp] theorem State.writeKey_runState (k : Fin 16) (p : Bool) : (s.writeKey k p).runState = s.runState := rfl
@[simp] theorem State.writeKey_cfg (k : Fin 16) (p : Bool) : (s.writeKey k p).cfg = s.cfg := rfl
@[simp] theorem State.writeKey_draws (k : Fin 16) (p : Bool) : (s.writeKey k p).draws = s.draws := rfl
@[simp] theorem State.writeKey_reg (k : Fin 16) (p : Bool) (q : Reg) : (s.writeKey k p).reg q = s.reg q := rfl
@[simp] theorem State.writeKey_peek (k : Fin 16) (p : Bool) (q : Nat) : (s.writeKey k p).peek q = s.peek q := rfl

/-! ### State.countDraw -/

@[simp] theorem State.countDraw_v : (s.countDraw).v = s.v := rfl
@[simp] theorem State.countDraw_i : (s.countDraw).i = s.i := rfl
@[simp] theorem State.countDraw_pc : (s.countDraw).pc = s.pc := rfl
@[simp] theorem State.countDraw_sp : (s.countDraw).sp = s.sp := rfl
@[simp] theorem State.countDraw_stack : (s.countDraw).stack = s.stack := rfl
@[simp] theorem State.countDraw_dt : (s.countDraw).dt = s.dt := rfl
@[simp] theorem State.countDraw_st : (s.countDraw).st = s.st := rfl
@[simp] theorem State.countDraw_mem : (s.countDraw).mem = s.mem := rfl
@[simp] theorem State.countDraw_screen : (s.countDraw).screen = s.screen := rfl
@[simp] theorem State.countDraw_dirty : (s.countDraw).dirty = s.dirty := rfl
@[simp] theorem State.countDraw_keys : (s.countDraw).keys = s.keys := rfl
@[simp] theorem State.countDraw_runState : (s.countDraw).runState = s.runState := rfl
@[simp] theorem State.countDraw_cfg : (s.countDraw).cfg = s.cfg := rfl
@[simp] theorem State.countDraw_draws : (s.countDraw).draws = s.draws + 1 := rfl
@[simp] theorem State.countDraw_reg (q : Reg) : (s.countDraw).reg q = s.reg q := rfl
@[simp] theorem State.countDraw_peek (q : Nat) : (s.countDraw).peek q = s.peek q := rfl

/-! ### State.jump -/

@[simp] theorem State.jump_v (a : Word) : (s.jump a).v = s.v := rfl
@[simp] theorem State.jump_i (a : Word) : (s.jump a).i = s.i := rfl
@[simp] theorem State.jump_pc (a : Word) : (s.jump a).pc = a := rfl
@[simp] theorem State.jump_sp (a : Word) : (s.jump a).sp = s.sp := rfl
@[simp] theorem State.jump_stack (a : Word) : (s.jump a).stack = s.stack := rfl
@[simp] theorem State.jump_dt (a : Word) : (s.jump a).dt = s.dt := rfl
@[simp] theorem State.jump_st (a : Word) : (s.jump a).st = s.st := rfl
@[simp] theorem State.jump_mem (a : Word) : (s.jump a).mem = s.mem := rfl
@[simp] theorem State.jump_screen (a : Word) : (s.jump a).screen = s.screen := rfl
@[simp] theorem State.jump_dirty (a : Word) : (s.jump a).dirty = s.dirty := rfl
@[simp] theorem State.jump_keys (a : Word) : (s.jump a).keys = s.keys := rfl
@[simp] theorem State.jump_runState (a : Word) : (s.jump a).runState = s.runState := rfl
@[simp] theorem State.jump_cfg (a : Word) : (s.jump a).cfg = s.cfg := rfl
@[simp] theorem State.jump_draws (a : Word) : (s.jump a).draws = s.draws := rfl
@[simp] theorem State.jump_reg (a : Word) (q : Reg) : (s.jump a).reg q = s.reg q := rfl
@[simp] theorem State.jump_peek (a : Word) (q : Nat) : (s.jump a).peek q = s.peek q := rfl

/-! ### State.advance -/

@[simp] theorem State.advance_v : (s.advance).v = s.v := rfl
@[simp] theorem State.advance_i : (s.advance).i = s.i := rfl
@[simp] theorem State.advance_pc : (s.advance).pc = s.pc + 2#16 := rfl
@[simp] theorem State.advance_sp : (s.advance).sp = s.sp := rfl
@[simp] theorem State.advance_stack : (s.advance).stack = s.stack := rfl
@[simp] theorem State.advance_dt : (s.advance).dt = s.dt := rfl
@[simp] theorem State.advance_st : (s.advance).st = s.st := rfl
@[simp] theorem State.advance_mem : (s.advance).mem = s.mem := rfl
@[simp] theorem State.advance_screen : (s.advance).screen = s.screen := rfl
@[simp] theorem State.advance_dirty : (s.advance).dirty = s.dirty := rfl
@[simp] theorem State.advance_keys : (s.advance).keys = s.keys := rfl
@[simp] theorem State.advance_runState : (s.advance).runState = s.runState := rfl
@[simp] theorem State.advance_cfg : (s.advance).cfg = s.cfg := rfl
@[simp] theorem State.advance_draws : (s.advance).draws = s.draws := rfl
@[simp] theorem State.advance_reg (q : Reg) : (s.advance).reg q = s.reg q := rfl
@[simp] theorem State.advance_peek (q : Nat) : (s.advance).peek q = s.peek q := rfl

/-! ### State.skip -/

@[simp] theorem State.skip_v : (s.skip).v = s.v := rfl
@[simp] theorem State.skip_i : (s.skip).i = s.i := rfl
@[simp] theorem State.skip_pc : (s.skip).pc = s.pc + 4#16 := rfl
@[simp] theorem State.skip_sp : (s.skip).sp = s.sp := rfl
@[simp] theorem State.skip_stack : (s.skip).stack = s.stack := rfl
@[simp] theorem State.skip_dt : (s.skip).dt = s.dt := rfl
@[simp] theorem State.skip_st : (s.skip).st = s.st := rfl
@[simp] theorem State.skip_mem : (s.skip).mem = s.mem := rfl
@[simp] theorem State.skip_screen : (s.skip).screen = s.screen := rfl
@[simp] theorem State.skip_dirty : (s.skip).dirty = s.dirty := rfl
@[simp] theorem State.skip_keys : (s.skip).keys = s.keys := rfl
@[simp] theorem State.skip_runState : (s.skip).runState = s.runState := rfl
@[simp] theorem State.skip_cfg : (s.skip).cfg = s.cfg := rfl
@[simp] theorem State.skip_draws : (s.skip).draws = s.draws := rfl
@[simp] theorem State.skip_reg (q : Reg) : (s.skip).reg q = s.reg q := rfl
@[simp] theorem State.skip_peek (q : Nat) : (s.skip).peek q = s.peek q := rfl

/-! ### State.poke -/

@[simp] theorem State.poke_v (a : Nat) (bs : List Byte) : (s.poke a bs).v = s.v := rfl
@[simp] theorem State.poke_i (a : Nat) (bs : List Byte) : (s.poke a bs).i = s.i := rfl
@[simp] theorem State.poke_pc (a : Nat) (bs : List Byte) : (s.poke a bs).pc = s.pc := rfl
@[simp] theorem State.poke_sp (a : Nat) (bs : List Byte) : (s.poke a bs).sp = s.sp := rfl
@[simp] theorem State.poke_stack (a : Nat) (bs : List Byte) : (s.poke a bs).stack = s.stack := rfl
@[simp] theorem State.poke_dt (a : Nat) (bs : List Byte) : (s.poke a bs).dt = s.dt := rfl
@[simp] theorem State.poke_st (a : Nat) (bs : List Byte) : (s.poke a bs).st = s.st := rfl
@[simp] theorem State.poke_mem (a : Nat) (bs : List Byte) : (s.poke a bs).mem = Memory.putBytes (resetByte s.cfg) s.mem a bs := rfl
@[simp] theorem State.poke_screen (a : Nat) (bs : List Byte) : (s.poke a bs).screen = s.screen := rfl
@[simp] theorem State.poke_dirty (a : Nat) (bs : List Byte) : (s.poke a bs).dirty = s.dirty := rfl
@[simp] theorem State.poke_keys (a : Nat) (bs : List Byte) : (s.poke a bs).keys = s.keys := rfl
@[simp] theorem State.poke_runState (a : Nat) (bs : List Byte) : (s.poke a bs).runState = s.runState := rfl
@[simp] theorem State.poke_cfg (a : Nat) (bs : List Byte) : (s.poke a bs).cfg = s.cfg := rfl
@[simp] theorem State.poke_draws (a : Nat) (bs : List Byte) : (s.poke a bs).draws = s.draws := rfl
@[simp] theorem State.poke_reg (a : Nat) (bs : List Byte) (q : Reg) : (s.poke a bs).reg q = s.reg q := rfl

/-! ### State.raise -/

@[simp] theorem State.raise_v (e : CoreError) : (s.raise e).v = s.v := rfl
@[simp] theorem State.raise_i (e : CoreError) : (s.raise e).i = s.i := rfl
@[simp] theorem State.raise_pc (e : CoreError) : (s.raise e).pc = s.pc := rfl
@[simp] theorem State.raise_sp (e : CoreError) : (s.raise e).sp = s.sp := rfl
@[simp] theorem State.raise_stack (e : CoreError) : (s.raise e).stack = s.stack := rfl
@[simp] theorem State.raise_dt (e : CoreError) : (s.raise e).dt = s.dt := rfl
@[simp] theorem State.raise_st (e : CoreError) : (s.raise e).st = s.st := rfl
@[simp] theorem State.raise_mem (e : CoreError) : (s.raise e).mem = s.mem := rfl
@[simp] theorem State.raise_screen (e : CoreError) : (s.raise e).screen = s.screen := rfl
@[simp] theorem State.raise_dirty (e : CoreError) : (s.raise e).dirty = s.dirty := rfl
@[simp] theorem State.raise_keys (e : CoreError) : (s.raise e).keys = s.keys := rfl
@[simp] theorem State.raise_runState (e : CoreError) : (s.raise e).runState = .halted e := rfl
@[simp] theorem State.raise_cfg (e : CoreError) : (s.raise e).cfg = s.cfg := rfl
@[simp] theorem State.raise_draws (e : CoreError) : (s.raise e).draws = s.draws := rfl
@[simp] theorem State.raise_reg (e : CoreError) (q : Reg) : (s.raise e).reg q = s.reg q := rfl
@[simp] theorem State.raise_peek (e : CoreError) (q : Nat) : (s.raise e).peek q = s.peek q := rfl

/-! ### State.tickTimers -/

@[simp] theorem State.tickTimers_v : (s.tickTimers).v = s.v := rfl
@[simp] theorem State.tickTimers_i : (s.tickTimers).i = s.i := rfl
@[simp] theorem State.tickTimers_pc : (s.tickTimers).pc = s.pc := rfl
@[simp] theorem State.tickTimers_sp : (s.tickTimers).sp = s.sp := rfl
@[simp] theorem State.tickTimers_stack : (s.tickTimers).stack = s.stack := rfl
@[simp] theorem State.tickTimers_dt : (s.tickTimers).dt = tickTimer s.dt := rfl
@[simp] theorem State.tickTimers_st : (s.tickTimers).st = tickTimer s.st := rfl
@[simp] theorem State.tickTimers_mem : (s.tickTimers).mem = s.mem := rfl
@[simp] theorem State.tickTimers_screen : (s.tickTimers).screen = s.screen := rfl
@[simp] theorem State.tickTimers_dirty : (s.tickTimers).dirty = s.dirty := rfl
@[simp] theorem State.tickTimers_keys : (s.tickTimers).keys = s.keys := rfl
@[simp] theorem State.tickTimers_runState : (s.tickTimers).runState = s.runState := rfl
@[simp] theorem State.tickTimers_cfg : (s.tickTimers).cfg = s.cfg := rfl
@[simp] theorem State.tickTimers_draws : (s.tickTimers).draws = s.draws := rfl
@[simp] theorem State.tickTimers_reg (q : Reg) : (s.tickTimers).reg q = s.reg q := rfl
@[simp] theorem State.tickTimers_peek (q : Nat) : (s.tickTimers).peek q = s.peek q := rfl

/-! ### State.clearDirty -/

@[simp] theorem State.clearDirty_v : (s.clearDirty).v = s.v := rfl
@[simp] theorem State.clearDirty_i : (s.clearDirty).i = s.i := rfl
@[simp] theorem State.clearDirty_pc : (s.clearDirty).pc = s.pc := rfl
@[simp] theorem State.clearDirty_sp : (s.clearDirty).sp = s.sp := rfl
@[simp] theorem State.clearDirty_stack : (s.clearDirty).stack = s.stack := rfl
@[simp] theorem State.clearDirty_dt : (s.clearDirty).dt = s.dt := rfl
@[simp] theorem State.clearDirty_st : (s.clearDirty).st = s.st := rfl
@[simp] theorem State.clearDirty_mem : (s.clearDirty).mem = s.mem := rfl
@[simp] theorem State.clearDirty_screen : (s.clearDirty).screen = s.screen := rfl
@[simp] theorem State.clearDirty_dirty : (s.clearDirty).dirty = false := rfl
@[simp] theorem State.clearDirty_keys : (s.clearDirty).keys = s.keys := rfl
@[simp] theorem State.clearDirty_runState : (s.clearDirty).runState = s.runState := rfl
@[simp] theorem State.clearDirty_cfg : (s.clearDirty).cfg = s.cfg := rfl
@[simp] theorem State.clearDirty_draws : (s.clearDirty).draws = s.draws := rfl
@[simp] theorem State.clearDirty_reg (q : Reg) : (s.clearDirty).reg q = s.reg q := rfl
@[simp] theorem State.clearDirty_peek (q : Nat) : (s.clearDirty).peek q = s.peek q := rfl

end Fields

/-! ### One register after a register write -/

theorem State.setReg_reg (s : State) (r q : Reg) (b : Byte) :
    (s.setReg r b).reg q = if q = r then b else s.reg q := by
  simp only [State.reg, State.setReg, Vector.getElem_set, Fin.ext_iff, eq_comm]

@[simp] theorem State.setReg_reg_same (s : State) (r : Reg) (b : Byte) : (s.setReg r b).reg r = b := by
  simp [State.setReg_reg]

theorem State.setReg_reg_other (s : State) {r q : Reg} (b : Byte) (h : q ≠ r) :
    (s.setReg r b).reg q = s.reg q := by
  simp [State.setReg_reg, h]

/-- Two register files that agree on every register are equal. -/
theorem State.v_ext {s t : State} (h : ∀ r, t.reg r = s.reg r) : t.v = s.v :=
  Vector.ext fun k hk => h ⟨k, hk⟩

/-! ### The result and the flag, VF last -/

theorem State.setResultThenFlag_reg (s : State) (x q : Reg) (b f : Byte) :
    (s.setResultThenFlag x b f).reg q = if q = regF then f else if q = x then b else s.reg q := by
  simp only [State.setResultThenFlag, State.setReg_reg]

end Sys2Proof.Machine
end

