-- ==== Sys2Proof/Laws/Memory.lean ====
section
/-! SUPPORT. The laws of memory: reads after writes, and that every memory operation keeps the canonical
form, in which equal memories are equal data. -/

namespace Sys2Proof.Machine

variable {d : Nat → Byte}

theorem Memory.wfFrom_cons {lo a : Nat} {v : Byte} {m : Memory} :
    Memory.wfFrom d lo ((a, v) :: m) = true ↔
      (lo ≤ a ∧ a < 4096 ∧ v ≠ d a) ∧ Memory.wfFrom d (a + 1) m = true := by
  simp [Memory.wfFrom]

theorem Memory.wfFrom_mono {lo lo' : Nat} {m : Memory} (h : Memory.wfFrom d lo m = true) (le : lo' ≤ lo) :
    Memory.wfFrom d lo' m = true := by
  cases m with
  | nil => rfl
  | cons c m =>
    rw [Memory.wfFrom_cons] at h ⊢
    exact ⟨⟨by omega, h.1.2⟩, h.2⟩

/-- Below its first listed address a canonical memory reads as if it listed nothing. -/
theorem Memory.get_below {m : Memory} {lo a : Nat} (h : Memory.wfFrom d lo m = true) (lt : a < lo) :
    Memory.get d m a = d a := by
  induction m generalizing lo with
  | nil => rfl
  | cons c m ih =>
    obtain ⟨b, w⟩ := c
    rw [Memory.wfFrom_cons] at h
    rw [Memory.get, if_neg (by omega), ih h.2 (by omega)]

theorem Memory.get_cons_entry {a b : Nat} {v : Byte} {m : Memory} (h : Memory.wfFrom d (a + 1) m = true) :
    Memory.get d (Memory.cons d a v m) b = if b = a then v else Memory.get d m b := by
  unfold Memory.cons
  split
  · next e =>
    split
    · next e' => rw [e', Memory.get_below h (by omega), e]
    · rfl
  · rw [Memory.get]

theorem Memory.cons_wfFrom {a lo : Nat} {v : Byte} {m : Memory} (h : Memory.wfFrom d (a + 1) m = true)
    (le : lo ≤ a) (lt : a < 4096) : Memory.wfFrom d lo (Memory.cons d a v m) = true := by
  unfold Memory.cons
  split
  · exact Memory.wfFrom_mono h (by omega)
  · next ne => exact Memory.wfFrom_cons.2 ⟨⟨le, lt, ne⟩, h⟩

/-- A read after a write: the value written at its address, the old byte elsewhere. -/
theorem Memory.get_put {m : Memory} {lo a b : Nat} {v : Byte} (h : Memory.wfFrom d lo m = true) :
    Memory.get d (Memory.put d m a v) b = if b = a then v else Memory.get d m b := by
  induction m generalizing lo with
  | nil => exact Memory.get_cons_entry (m := []) rfl
  | cons c m ih =>
    obtain ⟨k, w⟩ := c
    have h' := Memory.wfFrom_cons.1 h
    unfold Memory.put
    split
    · exact Memory.get_cons_entry (Memory.wfFrom_cons.2 ⟨⟨by omega, h'.1.2⟩, h'.2⟩)
    · split
      · next e =>
        subst e
        rw [Memory.get_cons_entry h'.2, Memory.get]
        split <;> simp_all
      · next ne =>
        rw [Memory.get, Memory.get, ih h'.2]
        split
        · next e => rw [if_neg (by omega)]
        · rfl

theorem Memory.put_wfFrom {m : Memory} {lo a : Nat} {v : Byte} (h : Memory.wfFrom d lo m = true) (le : lo ≤ a)
    (lt : a < 4096) : Memory.wfFrom d lo (Memory.put d m a v) = true := by
  induction m generalizing lo with
  | nil => exact Memory.cons_wfFrom rfl le lt
  | cons c m ih =>
    obtain ⟨k, w⟩ := c
    have h' := Memory.wfFrom_cons.1 h
    unfold Memory.put
    split
    · exact Memory.cons_wfFrom (Memory.wfFrom_cons.2 ⟨⟨by omega, h'.1.2⟩, h'.2⟩) le lt
    · split
      · next e => subst e; exact Memory.cons_wfFrom h'.2 le lt
      · exact Memory.wfFrom_cons.2 ⟨h'.1, ih h'.2 (by omega)⟩

theorem Memory.put_wf {m : Memory} {a : Nat} {v : Byte} (h : Memory.wf d m = true) (lt : a < 4096) :
    Memory.wf d (Memory.put d m a v) = true :=
  Memory.put_wfFrom h (Nat.zero_le a) lt

theorem Memory.putBytes_wf {m : Memory} {a : Nat} {bs : List Byte} (h : Memory.wf d m = true)
    (le : bs = [] ∨ a + bs.length ≤ 4096) : Memory.wf d (Memory.putBytes d m a bs) = true := by
  induction bs generalizing m a with
  | nil => exact h
  | cons b bs ih =>
    simp only [List.length_cons, reduceCtorEq, false_or] at le
    exact ih (Memory.put_wf h (by omega)) (by omega)

/-- A read after a write of bytes: inside the stored range the stored byte, outside it the old byte. -/
theorem Memory.get_putBytes {m : Memory} {a b : Nat} {bs : List Byte} (h : Memory.wf d m = true)
    (le : bs = [] ∨ a + bs.length ≤ 4096) :
    Memory.get d (Memory.putBytes d m a bs) b =
      if a ≤ b ∧ b < a + bs.length then bs.getD (b - a) 0#8 else Memory.get d m b := by
  induction bs generalizing m a with
  | nil => rw [if_neg (by simp)]; rfl
  | cons c bs ih =>
    simp only [List.length_cons, reduceCtorEq, false_or] at le
    rw [Memory.putBytes, ih (Memory.put_wf h (by omega)) (by omega), Memory.get_put h]
    simp only [List.length_cons]
    rcases Nat.lt_trichotomy b a with lt | rfl | gt
    · rw [if_neg (by omega), if_neg (by omega), if_neg (by omega)]
    · rw [if_neg (by omega), if_pos rfl, if_pos (by omega)]; simp
    · rw [show b - a = (b - (a + 1)) + 1 by omega]
      by_cases hb : b < a + (bs.length + 1)
      · rw [if_pos (by omega), if_pos (by omega)]; rfl
      · rw [if_neg (by omega), if_neg (by omega), if_neg (by omega)]

theorem Memory.eq_of_get_from {m n : Memory} {lo : Nat} (hm : Memory.wfFrom d lo m = true)
    (hn : Memory.wfFrom d lo n = true) (h : ∀ a, Memory.get d m a = Memory.get d n a) : m = n := by
  induction m generalizing n lo with
  | nil =>
    cases n with
    | nil => rfl
    | cons c n =>
      obtain ⟨b, w⟩ := c
      have e := h b
      rw [Memory.get, Memory.get, if_pos rfl] at e
      exact absurd e.symm (Memory.wfFrom_cons.1 hn).1.2.2
  | cons c m ih =>
    obtain ⟨a, v⟩ := c
    have hm' := Memory.wfFrom_cons.1 hm
    cases n with
    | nil =>
      have e := h a
      simp only [Memory.get, if_true] at e
      exact absurd e hm'.1.2.2
    | cons c' n =>
      obtain ⟨b, w⟩ := c'
      have hn' := Memory.wfFrom_cons.1 hn
      rcases Nat.lt_trichotomy a b with lt | rfl | gt
      · have e := h a
        rw [Memory.get, if_pos rfl, Memory.get, if_neg (by omega), Memory.get_below hn'.2 (by omega)] at e
        exact absurd e hm'.1.2.2
      · have e := h a
        rw [Memory.get, if_pos rfl, Memory.get, if_pos rfl] at e
        subst e
        congr 1
        refine ih hm'.2 hn'.2 fun q => ?_
        have e := h q
        rw [Memory.get, Memory.get] at e
        rcases Nat.lt_or_ge q (a + 1) with lt | ge
        · rw [Memory.get_below hm'.2 lt, Memory.get_below hn'.2 lt]
        · rwa [if_neg (by omega), if_neg (by omega)] at e
      · have e := h b
        rw [Memory.get, if_neg (by omega), Memory.get_below hm'.2 (by omega), Memory.get, if_pos rfl] at e
        exact absurd e.symm hn'.1.2.2

/-! ### The range check -/

theorem inRange_iff {a n : Nat} : inRange a n = true ↔ n = 0 ∨ a + n ≤ 4096 := by
  simp [inRange]

theorem inRange_false_iff {a n : Nat} : inRange a n = false ↔ n ≠ 0 ∧ 4096 < a + n := by
  simp [inRange]

/-- Everything MemRead can do: the bytes of the range, or the error of the range. -/
theorem State.memRead_cases (s : State) (a n : Nat) :
    (inRange a n = true ∧ s.memRead a n = .ok ((List.range n).map fun j => s.peek (a + j))) ∨
    (inRange a n = false ∧ s.memRead a n = .error (rangeError a)) := by
  unfold State.memRead
  cases inRange a n <;> simp

/-- Everything MemWrite can do: the bytes stored, or the error of the range and nothing stored. -/
theorem State.memWrite_cases (s : State) (a : Nat) (bs : List Byte) :
    (inRange a bs.length = true ∧ s.memWrite a bs = .ok (s.poke a bs)) ∨
    (inRange a bs.length = false ∧ s.memWrite a bs = .error (rangeError a)) := by
  unfold State.memWrite
  cases inRange a bs.length <;> simp

/-- The bytes of memory after a store. -/
theorem State.poke_peek {s : State} {a b : Nat} {bs : List Byte}
    (h : Memory.wf (resetByte s.cfg) s.mem = true) (le : bs = [] ∨ a + bs.length ≤ 4096) :
    (s.poke a bs).peek b = if a ≤ b ∧ b < a + bs.length then bs.getD (b - a) 0#8 else s.peek b :=
  Memory.get_putBytes h le

end Sys2Proof.Machine
end

