-- ==== Sys2Proof/Laws/Ops.lean ====
section
/-! SUPPORT. For each shared operation, once, everything it can do: checked operations, taking a fatal error,
the stack, the skips, the register block load, the key test, the fetch and the step. -/

namespace Sys2Proof.Machine

/-! ### Taking a fatal error -/

/-- A checked instruction that answers a next state either passed its check or took its error. -/
theorem State.attempt_cases {s t : State} {r : Except CoreError State} (h : s.attempt r = .next t) :
    r = .ok t ∨ ∃ e, r = .error e ∧ t = s.raise e := by
  cases r with
  | ok u => simp only [State.attempt, Host.Outcome.next.injEq] at h; exact .inl (h ▸ rfl)
  | error e => simp only [State.attempt, Host.Outcome.next.injEq] at h; exact .inr ⟨e, rfl, h.symm⟩

@[simp] theorem State.attempt_ok (s t : State) : s.attempt (.ok t) = .next t := rfl

@[simp] theorem State.attempt_error (s : State) (e : CoreError) : s.attempt (.error e) = .next (s.raise e) := rfl

/-! ### The stack -/

theorem State.push_ok {s : State} {a : Word} (h : s.sp < s.cfg.stackCapacity) :
    s.push a = .ok { s with stack := s.stack.set s.sp a, sp := s.sp + 1 } := if_pos h

theorem State.push_full {s : State} {a : Word} (h : s.cfg.stackCapacity ≤ s.sp) :
    s.push a = .error .stackOverflow := if_neg (by omega)

theorem State.popToPc_ok {s : State} (h : 0 < s.sp) :
    s.popToPc = .ok { s with sp := s.sp - 1, pc := s.topEntry } := if_pos h

theorem State.popToPc_empty {s : State} (h : s.sp = 0) : s.popToPc = .error .stackUnderflow :=
  if_neg (by omega)

/-! ### Skips -/

/-- A skip writes nothing but PC. -/
theorem State.skipIf_eq (s : State) (c : Bool) :
    s.skipIf c = { s with pc := if c then s.pc + 4#16 else s.pc + 2#16 } := by
  cases c <;> rfl

/-! ### The result and the flag -/

theorem State.setResultThenFlag_eq (s : State) (x : Reg) (b f : Byte) :
    s.setResultThenFlag x b f = { s with v := (s.setResultThenFlag x b f).v } := rfl

theorem flagByte_eq_one (c : Bool) : flagByte c = 1#8 ↔ c = true := by
  cases c <;> decide

/-! ### The register block load -/

theorem State.setRegsFrom_eq (s : State) (k : Nat) (bs : List Byte) :
    s.setRegsFrom k bs = { s with v := (s.setRegsFrom k bs).v } := by
  induction bs generalizing s k with
  | nil => rfl
  | cons b bs ih => exact ih (s.setReg (Fin.ofNat 16 k) b) (k + 1)

theorem State.setRegsFrom_reg {s : State} {k : Nat} {bs : List Byte} (le : k + bs.length ≤ 16) (r : Reg) :
    (s.setRegsFrom k bs).reg r =
      if k ≤ r.val ∧ r.val < k + bs.length then bs.getD (r.val - k) 0#8 else s.reg r := by
  induction bs generalizing s k with
  | nil => rw [if_neg (by simp)]; rfl
  | cons b bs ih =>
    simp only [List.length_cons] at le ⊢
    rw [State.setRegsFrom, ih (by omega), State.setReg_reg]
    have e : (r = Fin.ofNat 16 k) ↔ r.val = k := by
      rw [Fin.ext_iff, Fin.val_ofNat, Nat.mod_eq_of_lt (by omega)]
    rcases Nat.lt_trichotomy r.val k with lt | eq | gt
    · rw [if_neg (by omega), if_neg (by rw [e]; omega), if_neg (by omega)]
    · rw [if_neg (by omega), if_pos (e.2 eq), if_pos (by omega), eq]; simp
    · rw [if_neg (c := r = _) (by rw [e]; omega), show r.val - k = (r.val - (k + 1)) + 1 by omega]
      by_cases hr : r.val < k + (bs.length + 1)
      · rw [if_pos (by omega), if_pos (by omega)]; rfl
      · rw [if_neg (by omega), if_neg (by omega)]

/-- V0..VX as a list: X + 1 bytes, entry r being V[r]. -/
theorem State.regsUpTo_length (s : State) (x : Reg) : (s.regsUpTo x).length = x.val + 1 := by
  simp [State.regsUpTo, List.length_take]

theorem State.regsUpTo_getD (s : State) {x r : Reg} (h : r.val ≤ x.val) :
    (s.regsUpTo x).getD r.val 0#8 = s.reg r := by
  have lt : r.val < (s.regsUpTo x).length := by rw [State.regsUpTo_length]; omega
  rw [List.getD_eq_getElem _ _ lt]
  simp [State.regsUpTo, State.reg]

/-! ### What the compound updates leave alone -/

@[simp] theorem State.setResultThenFlag_i (s : State) (x : Reg) (b f : Byte) :
    (s.setResultThenFlag x b f).i = s.i := rfl
@[simp] theorem State.setResultThenFlag_pc (s : State) (x : Reg) (b f : Byte) :
    (s.setResultThenFlag x b f).pc = s.pc := rfl
@[simp] theorem State.setResultThenFlag_sp (s : State) (x : Reg) (b f : Byte) :
    (s.setResultThenFlag x b f).sp = s.sp := rfl
@[simp] theorem State.setResultThenFlag_stack (s : State) (x : Reg) (b f : Byte) :
    (s.setResultThenFlag x b f).stack = s.stack := rfl
@[simp] theorem State.setResultThenFlag_dt (s : State) (x : Reg) (b f : Byte) :
    (s.setResultThenFlag x b f).dt = s.dt := rfl
@[simp] theorem State.setResultThenFlag_st (s : State) (x : Reg) (b f : Byte) :
    (s.setResultThenFlag x b f).st = s.st := rfl
@[simp] theorem State.setResultThenFlag_mem (s : State) (x : Reg) (b f : Byte) :
    (s.setResultThenFlag x b f).mem = s.mem := rfl
@[simp] theorem State.setResultThenFlag_screen (s : State) (x : Reg) (b f : Byte) :
    (s.setResultThenFlag x b f).screen = s.screen := rfl
@[simp] theorem State.setResultThenFlag_dirty (s : State) (x : Reg) (b f : Byte) :
    (s.setResultThenFlag x b f).dirty = s.dirty := rfl
@[simp] theorem State.setResultThenFlag_keys (s : State) (x : Reg) (b f : Byte) :
    (s.setResultThenFlag x b f).keys = s.keys := rfl
@[simp] theorem State.setResultThenFlag_runState (s : State) (x : Reg) (b f : Byte) :
    (s.setResultThenFlag x b f).runState = s.runState := rfl
@[simp] theorem State.setResultThenFlag_cfg (s : State) (x : Reg) (b f : Byte) :
    (s.setResultThenFlag x b f).cfg = s.cfg := rfl
@[simp] theorem State.setResultThenFlag_draws (s : State) (x : Reg) (b f : Byte) :
    (s.setResultThenFlag x b f).draws = s.draws := rfl

@[simp] theorem State.setRegsFrom_i (s : State) (k : Nat) (bs : List Byte) :
    (s.setRegsFrom k bs).i = s.i := by rw [State.setRegsFrom_eq]
@[simp] theorem State.setRegsFrom_pc (s : State) (k : Nat) (bs : List Byte) :
    (s.setRegsFrom k bs).pc = s.pc := by rw [State.setRegsFrom_eq]
@[simp] theorem State.setRegsFrom_sp (s : State) (k : Nat) (bs : List Byte) :
    (s.setRegsFrom k bs).sp = s.sp := by rw [State.setRegsFrom_eq]
@[simp] theorem State.setRegsFrom_stack (s : State) (k : Nat) (bs : List Byte) :
    (s.setRegsFrom k bs).stack = s.stack := by rw [State.setRegsFrom_eq]
@[simp] theorem State.setRegsFrom_dt (s : State) (k : Nat) (bs : List Byte) :
    (s.setRegsFrom k bs).dt = s.dt := by rw [State.setRegsFrom_eq]
@[simp] theorem State.setRegsFrom_st (s : State) (k : Nat) (bs : List Byte) :
    (s.setRegsFrom k bs).st = s.st := by rw [State.setRegsFrom_eq]
@[simp] theorem State.setRegsFrom_mem (s : State) (k : Nat) (bs : List Byte) :
    (s.setRegsFrom k bs).mem = s.mem := by rw [State.setRegsFrom_eq]
@[simp] theorem State.setRegsFrom_screen (s : State) (k : Nat) (bs : List Byte) :
    (s.setRegsFrom k bs).screen = s.screen := by rw [State.setRegsFrom_eq]
@[simp] theorem State.setRegsFrom_dirty (s : State) (k : Nat) (bs : List Byte) :
    (s.setRegsFrom k bs).dirty = s.dirty := by rw [State.setRegsFrom_eq]
@[simp] theorem State.setRegsFrom_keys (s : State) (k : Nat) (bs : List Byte) :
    (s.setRegsFrom k bs).keys = s.keys := by rw [State.setRegsFrom_eq]
@[simp] theorem State.setRegsFrom_runState (s : State) (k : Nat) (bs : List Byte) :
    (s.setRegsFrom k bs).runState = s.runState := by rw [State.setRegsFrom_eq]
@[simp] theorem State.setRegsFrom_cfg (s : State) (k : Nat) (bs : List Byte) :
    (s.setRegsFrom k bs).cfg = s.cfg := by rw [State.setRegsFrom_eq]
@[simp] theorem State.setRegsFrom_draws (s : State) (k : Nat) (bs : List Byte) :
    (s.setRegsFrom k bs).draws = s.draws := by rw [State.setRegsFrom_eq]

@[simp] theorem State.skipIf_v (s : State) (c : Bool) : (s.skipIf c).v = s.v := by rw [State.skipIf_eq]
@[simp] theorem State.skipIf_i (s : State) (c : Bool) : (s.skipIf c).i = s.i := by rw [State.skipIf_eq]
@[simp] theorem State.skipIf_sp (s : State) (c : Bool) : (s.skipIf c).sp = s.sp := by rw [State.skipIf_eq]
@[simp] theorem State.skipIf_stack (s : State) (c : Bool) : (s.skipIf c).stack = s.stack := by rw [State.skipIf_eq]
@[simp] theorem State.skipIf_dt (s : State) (c : Bool) : (s.skipIf c).dt = s.dt := by rw [State.skipIf_eq]
@[simp] theorem State.skipIf_st (s : State) (c : Bool) : (s.skipIf c).st = s.st := by rw [State.skipIf_eq]
@[simp] theorem State.skipIf_mem (s : State) (c : Bool) : (s.skipIf c).mem = s.mem := by rw [State.skipIf_eq]
@[simp] theorem State.skipIf_screen (s : State) (c : Bool) : (s.skipIf c).screen = s.screen := by rw [State.skipIf_eq]
@[simp] theorem State.skipIf_dirty (s : State) (c : Bool) : (s.skipIf c).dirty = s.dirty := by rw [State.skipIf_eq]
@[simp] theorem State.skipIf_keys (s : State) (c : Bool) : (s.skipIf c).keys = s.keys := by rw [State.skipIf_eq]
@[simp] theorem State.skipIf_runState (s : State) (c : Bool) : (s.skipIf c).runState = s.runState := by rw [State.skipIf_eq]
@[simp] theorem State.skipIf_cfg (s : State) (c : Bool) : (s.skipIf c).cfg = s.cfg := by rw [State.skipIf_eq]
@[simp] theorem State.skipIf_draws (s : State) (c : Bool) : (s.skipIf c).draws = s.draws := by rw [State.skipIf_eq]
@[simp] theorem State.skipIf_reg (s : State) (c : Bool) (r : Reg) : (s.skipIf c).reg r = s.reg r := by
  rw [State.skipIf_eq]; rfl
@[simp] theorem State.skipIf_pc (s : State) (c : Bool) :
    (s.skipIf c).pc = if c then s.pc + 4#16 else s.pc + 2#16 := by rw [State.skipIf_eq]
@[simp] theorem State.setRegsFrom_peek (s : State) (k a : Nat) (bs : List Byte) :
    (s.setRegsFrom k bs).peek a = s.peek a := by rw [State.setRegsFrom_eq]; rfl

/-! ### The key test -/

theorem State.keyTest_real {s : State} {x : Reg} {k : Fin 16} (h : (s.reg x).toNat = k.val) :
    s.keyTest x = (s.keys[k.val], s) := by
  have lt : (s.reg x).toNat < 16 := h ▸ k.isLt
  rw [State.keyTest, dif_pos lt]
  simp only [h]

theorem State.keyTest_none {s : State} {x : Reg} (h : 15 < (s.reg x).toNat) :
    s.keyTest x = (Config.keyDraw s.draws, s.countDraw) := by
  rw [State.keyTest, dif_neg (by omega)]

/-- The key test changes at most the count of draws. -/
theorem State.keyTest_state (s : State) (x : Reg) : (s.keyTest x).2 = s ∨ (s.keyTest x).2 = s.countDraw := by
  unfold State.keyTest
  split
  · exact .inl rfl
  · exact .inr rfl

/-! ### The fetch and the step -/

theorem State.fetchInstr_cases (s : State) :
    (4094 < s.pc.toNat ∧ s.fetchInstr = .error (rangeError s.pc.toNat)) ∨
    (s.pc.toNat ≤ 4094 ∧ decode (wordOfBytes (s.peek s.pc.toNat) (s.peek (s.pc.toNat + 1))) = none ∧
      s.fetchInstr = .error
        (.unknownOpcode (wordOfBytes (s.peek s.pc.toNat) (s.peek (s.pc.toNat + 1))) s.pc)) ∨
    (s.pc.toNat ≤ 4094 ∧
      ∃ i, decode (wordOfBytes (s.peek s.pc.toNat) (s.peek (s.pc.toNat + 1))) = some i ∧
        s.fetchInstr = .ok i) := by
  unfold State.fetchInstr State.fetch
  by_cases h : s.pc.toNat ≤ 4094
  · rw [if_pos (inRange_iff.2 (by omega))]
    cases hd : decode (wordOfBytes (s.peek s.pc.toNat) (s.peek (s.pc.toNat + 1))) with
    | none => exact .inr (.inl ⟨h, rfl, by simp [hd]⟩)
    | some i => exact .inr (.inr ⟨h, i, rfl, by simp [hd]⟩)
  · refine .inl ⟨by omega, ?_⟩
    have : inRange s.pc.toNat 2 = false := inRange_false_iff.2 (by omega)
    simp [this]

theorem step_halted {s : State} {e : CoreError} (h : s.runState = .halted e) :
    step s = .fault (.halted e) := by
  simp [step, h, haltedStep]

theorem step_waiting {s : State} {x : Reg} (h : s.runState = .waitingForKey x) : step s = .next s := by
  simp [step, h, waitingStep]

theorem step_running_ok {s : State} {i : Instr} (h : s.runState = .running) (f : s.fetchInstr = .ok i) :
    step s = exec i s := by
  simp [step, h, f]

theorem step_running_error {s : State} {e : CoreError} (h : s.runState = .running)
    (f : s.fetchInstr = .error e) : step s = .next (s.raise e) := by
  simp [step, h, f]

/-- Everything a step that answers a next state can have done. -/
theorem step_cases {s t : State} (h : step s = .next t) :
    (∃ x, s.runState = .waitingForKey x ∧ t = s) ∨
    (s.runState = .running ∧ ∃ e, s.fetchInstr = .error e ∧ t = s.raise e) ∨
    (s.runState = .running ∧ ∃ i, s.fetchInstr = .ok i ∧ exec i s = .next t) := by
  cases hr : s.runState with
  | halted e => rw [step_halted hr] at h; cases h
  | waitingForKey x =>
    rw [step_waiting hr] at h
    injection h with h
    exact .inl ⟨x, rfl, h.symm⟩
  | running =>
    cases hf : s.fetchInstr with
    | error e =>
      rw [step_running_error hr hf] at h
      injection h with h
      exact .inr (.inl ⟨rfl, e, rfl, h.symm⟩)
    | ok i => exact .inr (.inr ⟨rfl, i, rfl, (step_running_ok hr hf) ▸ h⟩)

/-! ### The host's transactions -/

theorem State.runOps_nil (s : State) : s.runOps [] = s := rfl

theorem State.runOps_cons (s : State) (o : HostOp) (ops : List HostOp) :
    s.runOps (o :: ops) = (s.apply o).runOps ops := rfl

/-- A property every transaction keeps is kept by every sequence of them. -/
theorem State.runOps_keeps {P : State → Prop} (keep : ∀ s o, P s → P (s.apply o)) {s : State} (h : P s)
    (ops : List HostOp) : P (s.runOps ops) := by
  induction ops generalizing s with
  | nil => exact h
  | cons o ops ih => exact ih (keep s o h)

/-! ### What a call of step returns -/

theorem State.stepReturn_halted {s : State} {e : CoreError} (h : s.runState = .halted e) :
    s.stepReturn = .error e := by
  simp only [State.stepReturn, h]

theorem State.stepReturn_ok {s : State} (h : ∀ e, s.runState ≠ .halted e) : s.stepReturn = .ok () := by
  unfold State.stepReturn
  split
  · exact absurd ‹_› (h _)
  all_goals rfl

theorem stepCall_next {s t : State} (h : step s = .next t) : stepCall s = (t, t.stepReturn) := by
  simp only [stepCall, h]

end Sys2Proof.Machine
end

