-- ==== Sys2Proof/Laws/Display.lean ====
section
/-! SUPPORT. What the sprite plot does: the loops of DXYN are a fold over the sprite's cells, no two of which
are one pixel, so the plot toggles exactly the covered pixels (R184). -/

namespace Sys2Proof.Machine

/-! ### One pixel -/

theorem Grid.ext {g h : Grid} (e : ∀ y x, g.pixel y x = h.pixel y x) : g = h :=
  Vector.ext fun y hy => Vector.ext fun x hx => e ⟨y, hy⟩ ⟨x, hx⟩

theorem Grid.toggle_pixel (g : Grid) (y py : Fin 32) (x px : Fin 64) :
    (g.toggle y x).pixel py px = if py = y ∧ px = x then !g.pixel py px else g.pixel py px := by
  unfold Grid.toggle Grid.pixel
  rw [Vector.getElem_set]
  by_cases hy : py = y
  · subst hy
    rw [if_pos rfl, Vector.getElem_set]
    by_cases hx : px = x
    · subst hx; simp
    · rw [if_neg (fun h => hx (Fin.ext h.symm)), if_neg (fun h => hx h.2)]
  · rw [if_neg (fun h => hy (Fin.ext h.symm)), if_neg (fun h => hy h.1)]

@[simp] theorem Grid.blank_pixel (y : Fin 32) (x : Fin 64) : Grid.blank.pixel y x = false := by
  simp [Grid.blank, Grid.pixel]

/-! ### A plot as a fold over cells -/

/-- A sprite bit with the display pixel it goes to. -/
abbrev SpriteCell := (Fin 32 × Fin 64) × Bool

/-- One cell plotted. -/
def Plot.cell (p : Plot) (c : SpriteCell) : Plot := p.bit c.1.1 c.1.2 c.2

theorem Plot.cell_pixel (p : Plot) (c : SpriteCell) (y : Fin 32) (x : Fin 64) :
    (p.cell c).grid.pixel y x = (p.grid.pixel y x ^^ (decide ((y, x) = c.1) && c.2)) := by
  obtain ⟨⟨cy, cx⟩, b⟩ := c
  cases b
  · simp [Plot.cell, Plot.bit]
  · simp only [Plot.cell, Plot.bit, if_true, Grid.toggle_pixel, Prod.mk.injEq, Bool.and_true]
    by_cases h : y = cy ∧ x = cx <;> simp [h]

theorem Plot.cell_collision (p : Plot) (c : SpriteCell) :
    (p.cell c).collision = (p.collision || (c.2 && p.grid.pixel c.1.1 c.1.2)) := by
  obtain ⟨⟨cy, cx⟩, b⟩ := c
  cases b <;> simp [Plot.cell, Plot.bit]

/-- Cells no two of which are one pixel: each pixel is toggled exactly when a 1 bit goes to it, and the
collision is determined by the grid before the plot (R184). -/
theorem Plot.fold_cells (cells : List SpriteCell) (nd : (cells.map Prod.fst).Nodup) (p : Plot) :
    (∀ y x, (cells.foldl Plot.cell p).grid.pixel y x =
      (p.grid.pixel y x ^^ decide (((y, x), true) ∈ cells))) ∧
    ((cells.foldl Plot.cell p).collision = true ↔
      p.collision = true ∨ ∃ y x, ((y, x), true) ∈ cells ∧ p.grid.pixel y x = true) := by
  induction cells generalizing p with
  | nil => simp
  | cons c cells ih =>
    obtain ⟨q, b⟩ := c
    simp only [List.map_cons, List.nodup_cons] at nd
    obtain ⟨gr, col⟩ := ih nd.2 (p.cell (q, b))
    have out : ∀ b', (q, b') ∉ cells := fun b' h => nd.1 (List.mem_map.2 ⟨(q, b'), h, rfl⟩)
    refine ⟨fun y x => ?_, ?_⟩
    · rw [List.foldl_cons, gr, Plot.cell_pixel]
      by_cases e : (y, x) = q
      · subst e; cases b <;> simp [out]
      · simp [e]
    · rw [List.foldl_cons, col, Plot.cell_collision]
      constructor
      · rintro (h | ⟨y, x, m, h⟩)
        · rcases Bool.or_eq_true_iff.1 h with h | h
          · exact .inl h
          · obtain ⟨hb, hp⟩ := Bool.and_eq_true_iff.1 h
            cases hb
            exact .inr ⟨q.1, q.2, List.mem_cons_self, hp⟩
        · refine .inr ⟨y, x, List.mem_cons_of_mem _ m, ?_⟩
          have ne : (y, x) ≠ q := fun e => out true (e ▸ m)
          rwa [Plot.cell_pixel, decide_eq_false ne, Bool.false_and, Bool.xor_false] at h
      · rintro (h | ⟨y, x, m, h⟩)
        · exact .inl (by simp [h])
        · rcases List.mem_cons.1 m with e | m
          · injection e with e1 e2
            subst e1 e2
            exact .inl (by simp [h])
          · refine .inr ⟨y, x, m, ?_⟩
            have ne : (y, x) ≠ q := fun e => out true (e ▸ m)
            rwa [Plot.cell_pixel, decide_eq_false ne, Bool.false_and, Bool.xor_false]

/-! ### The cells of a sprite -/

/-- The cells of one sprite byte: column c, bit 7 - c (R181, R182). -/
def byteCells (y : Fin 32) (x0 : Nat) (b : Byte) : List SpriteCell :=
  (List.range 8).map fun c => ((y, Fin.ofNat 64 (x0 + c)), b.getLsbD (7 - c))

/-- The cells of a sprite, row by row. -/
def spriteCells (y0 x0 : Nat) : List Byte → List SpriteCell
  | [] => []
  | b :: bs => byteCells (Fin.ofNat 32 y0) x0 b ++ spriteCells (y0 + 1) x0 bs

theorem Plot.rows_eq_fold (p : Plot) (y0 x0 : Nat) (bytes : List Byte) :
    p.rows y0 x0 bytes = (spriteCells y0 x0 bytes).foldl Plot.cell p := by
  induction bytes generalizing p y0 with
  | nil => rfl
  | cons b bs ih =>
    rw [Plot.rows, ih, spriteCells, List.foldl_append, byteCells, List.foldl_map]
    rfl

theorem mem_byteCells {y py : Fin 32} {px : Fin 64} {x0 : Nat} {b : Byte} {v : Bool} :
    ((py, px), v) ∈ byteCells y x0 b ↔
      py = y ∧ ∃ c, c < 8 ∧ px.val = (x0 + c) % 64 ∧ v = b.getLsbD (7 - c) := by
  simp only [byteCells, List.mem_map, List.mem_range, Prod.mk.injEq]
  constructor
  · rintro ⟨c, lt, ⟨rfl, rfl⟩, rfl⟩
    exact ⟨rfl, c, lt, rfl, rfl⟩
  · rintro ⟨rfl, c, lt, hx, rfl⟩
    exact ⟨c, lt, ⟨rfl, Fin.ext hx.symm⟩, rfl⟩

theorem mem_spriteCells {py : Fin 32} {px : Fin 64} {y0 x0 : Nat} {bytes : List Byte} :
    ((py, px), true) ∈ spriteCells y0 x0 bytes ↔ SpriteCovers bytes y0 x0 py px := by
  induction bytes generalizing y0 with
  | nil => simp [spriteCells, SpriteCovers]
  | cons b bs ih =>
    rw [spriteCells, List.mem_append, mem_byteCells, ih]
    constructor
    · rintro (⟨rfl, c, lt, hx, hb⟩ | ⟨r, c, hr, hc, hb, hy, hx⟩)
      · exact ⟨0, c, by simp, lt, by simpa using hb.symm, rfl, hx⟩
      · exact ⟨r + 1, c, by simpa using hr, hc, by simpa using hb, by rw [hy]; congr 1; omega, hx⟩
    · rintro ⟨r, c, hr, hc, hb, hy, hx⟩
      cases r with
      | zero => exact .inl ⟨Fin.ext hy, c, hc, hx, by simpa using hb.symm⟩
      | succ r =>
        exact .inr ⟨r, c, by simpa using hr, hc, by simpa using hb, by rw [hy]; congr 1; omega, hx⟩

theorem fst_mem_spriteCells {q : Fin 32 × Fin 64} {y0 x0 : Nat} {bytes : List Byte}
    (h : q ∈ (spriteCells y0 x0 bytes).map Prod.fst) : ∃ r, r < bytes.length ∧ q.1.val = (y0 + r) % 32 := by
  induction bytes generalizing y0 with
  | nil => simp [spriteCells] at h
  | cons b bs ih =>
    rw [spriteCells, List.map_append, List.mem_append] at h
    rcases h with h | h
    · simp only [byteCells, List.map_map, List.mem_map] at h
      obtain ⟨c, -, rfl⟩ := h
      exact ⟨0, by simp, rfl⟩
    · obtain ⟨r, hr, e⟩ := ih h
      exact ⟨r + 1, by simpa using hr, by rw [e]; congr 1; omega⟩

/-- No sprite pixel lands twice on one display pixel (R184). -/
theorem spriteCells_nodup {y0 x0 : Nat} {bytes : List Byte} (le : bytes.length ≤ 32) :
    ((spriteCells y0 x0 bytes).map Prod.fst).Nodup := by
  induction bytes generalizing y0 with
  | nil => simp [spriteCells]
  | cons b bs ih =>
    simp only [List.length_cons] at le
    rw [spriteCells, List.map_append, List.nodup_append]
    refine ⟨?_, ih (by omega), ?_⟩
    · rw [byteCells, List.map_map]
      refine List.Nodup.map_on ?_ List.nodup_range
      intro c hc c' hc' e
      rw [List.mem_range] at hc hc'
      have e' : (x0 + c) % 64 = (x0 + c') % 64 := congrArg (fun q : Fin 32 × Fin 64 => q.2.val) e
      omega
    · intro q hq q' hq' e
      subst e
      simp only [byteCells, List.map_map, List.mem_map] at hq
      obtain ⟨c, -, rfl⟩ := hq
      obtain ⟨r, hr, e⟩ := fst_mem_spriteCells hq'
      have e' : y0 % 32 = (y0 + 1 + r) % 32 := e
      omega

/-- The plot of a sprite of at most 32 rows. -/
theorem Plot.rows_spec (p : Plot) (y0 x0 : Nat) {bytes : List Byte} (le : bytes.length ≤ 32) :
    (∀ y x, (p.rows y0 x0 bytes).grid.pixel y x ≠ p.grid.pixel y x ↔ SpriteCovers bytes y0 x0 y x) ∧
    ((p.rows y0 x0 bytes).collision = true ↔
      p.collision = true ∨ ∃ y x, SpriteCovers bytes y0 x0 y x ∧ p.grid.pixel y x = true) := by
  obtain ⟨gr, col⟩ := Plot.fold_cells _ (spriteCells_nodup le) p
  rw [Plot.rows_eq_fold]
  refine ⟨fun y x => ?_, ?_⟩
  · rw [gr, ← mem_spriteCells]
    cases p.grid.pixel y x <;> simp
  · rw [col]
    simp only [mem_spriteCells]

/-- Start coordinates behave as their values mod 32 and mod 64 (R181). -/
theorem spriteCovers_mod {bytes : List Byte} {y0 x0 : Nat} {y : Fin 32} {x : Fin 64} :
    SpriteCovers bytes (y0 % 32) (x0 % 64) y x ↔ SpriteCovers bytes y0 x0 y x := by
  simp only [SpriteCovers, Nat.mod_add_mod]

end Sys2Proof.Machine
end

