-- ==== Sys2Proof/Laws/Exec.lean ====
section
/-! SUPPORT. The two outcomes of each instruction that has a check (R12): its effect when the check holds, its
error when it does not. The other instructions' meanings are one update each. -/

namespace Sys2Proof.Machine

theorem execRet_ok {s : State} (h : 0 < s.sp) :
    exec .ret s = .next { s with sp := s.sp - 1, pc := s.topEntry } := by
  simp only [exec, execRet, State.popToPc_ok h, State.attempt_ok]

theorem execRet_error {s : State} (h : s.sp = 0) : exec .ret s = .next (s.raise .stackUnderflow) := by
  simp only [exec, execRet, State.popToPc_empty h, State.attempt_error]

theorem execCall_ok {s : State} {nnn : Addr12} (h : s.sp < s.cfg.stackCapacity) :
    exec (.call nnn) s =
      .next { s with stack := s.stack.set s.sp (s.pc + 2#16), sp := s.sp + 1, pc := zext16 nnn } := by
  simp only [exec, execCall, State.push_ok h, Except.map, State.attempt_ok, State.jump]

theorem execCall_error {s : State} {nnn : Addr12} (h : s.cfg.stackCapacity ≤ s.sp) :
    exec (.call nnn) s = .next (s.raise .stackOverflow) := by
  simp only [exec, execCall, State.push_full h, Except.map, State.attempt_error]

theorem execLdB_ok {s : State} {x : Reg} (h : s.i.toNat + 2 ≤ 4095) :
    exec (.ldB x) s = .next (s.poke s.i.toNat (bcdDigits (s.reg x))).advance := by
  simp only [exec, execLdB]
  rcases s.memWrite_cases s.i.toNat (bcdDigits (s.reg x)) with ⟨-, e⟩ | ⟨h', -⟩
  · rw [e]; rfl
  · rw [inRange_false_iff] at h'
    simp only [bcdDigits, List.length_cons, List.length_nil] at h'
    omega

theorem execLdB_error {s : State} {x : Reg} (h : 4095 < s.i.toNat + 2) :
    exec (.ldB x) s = .next (s.raise (rangeError s.i.toNat)) := by
  simp only [exec, execLdB]
  rcases s.memWrite_cases s.i.toNat (bcdDigits (s.reg x)) with ⟨h', -⟩ | ⟨-, e⟩
  · rw [inRange_iff] at h'
    simp only [bcdDigits, List.length_cons, List.length_nil] at h'
    omega
  · rw [e]; rfl

theorem execStRegs_ok {s : State} {x : Reg} (h : s.i.toNat + x.val ≤ 4095) :
    exec (.stRegs x) s = .next (s.poke s.i.toNat (s.regsUpTo x)).advance := by
  simp only [exec, execStRegs]
  rcases s.memWrite_cases s.i.toNat (s.regsUpTo x) with ⟨-, e⟩ | ⟨h', -⟩
  · rw [e]; rfl
  · rw [inRange_false_iff, State.regsUpTo_length] at h'
    omega

theorem execStRegs_error {s : State} {x : Reg} (h : 4095 < s.i.toNat + x.val) :
    exec (.stRegs x) s = .next (s.raise (rangeError s.i.toNat)) := by
  simp only [exec, execStRegs]
  rcases s.memWrite_cases s.i.toNat (s.regsUpTo x) with ⟨h', -⟩ | ⟨-, e⟩
  · rw [inRange_iff, State.regsUpTo_length] at h'
    omega
  · rw [e]; rfl

theorem execLdRegs_ok {s : State} {x : Reg} (h : s.i.toNat + x.val ≤ 4095) :
    exec (.ldRegs x) s =
      .next (s.setRegsFrom 0 ((List.range (x.val + 1)).map fun j => s.peek (s.i.toNat + j))).advance := by
  simp only [exec, execLdRegs]
  rcases s.memRead_cases s.i.toNat (x.val + 1) with ⟨-, e⟩ | ⟨h', -⟩
  · rw [e]; rfl
  · rw [inRange_false_iff] at h'
    omega

theorem execLdRegs_error {s : State} {x : Reg} (h : 4095 < s.i.toNat + x.val) :
    exec (.ldRegs x) s = .next (s.raise (rangeError s.i.toNat)) := by
  simp only [exec, execLdRegs]
  rcases s.memRead_cases s.i.toNat (x.val + 1) with ⟨h', -⟩ | ⟨-, e⟩
  · rw [inRange_iff] at h'
    omega
  · rw [e]; rfl

theorem execDrw_ok {s : State} {x y : Reg} {n : Fin 16} (h : n.val = 0 ∨ s.i.toNat + n.val ≤ 4096) :
    exec (.drw x y n) s =
      .next (((s.setScreen (s.plotSprite x y
          ((List.range n.val).map fun j => s.peek (s.i.toNat + j))).grid).setReg regF
        (flagByte (s.plotSprite x y
          ((List.range n.val).map fun j => s.peek (s.i.toNat + j))).collision)).advance) := by
  simp only [exec, execDrw]
  rcases s.memRead_cases s.i.toNat n.val with ⟨-, e⟩ | ⟨h', -⟩
  · rw [e]; rfl
  · rw [inRange_false_iff] at h'
    omega

theorem execDrw_error {s : State} {x y : Reg} {n : Fin 16} (h : 0 < n.val ∧ 4096 < s.i.toNat + n.val) :
    exec (.drw x y n) s = .next (s.raise (rangeError s.i.toNat)) := by
  simp only [exec, execDrw]
  rcases s.memRead_cases s.i.toNat n.val with ⟨h', -⟩ | ⟨-, e⟩
  · rw [inRange_iff] at h'
    omega
  · rw [e]; rfl

end Sys2Proof.Machine
end

