-- ==== Sys2Proof/Laws/PerInstr.lean ====
section
/-! SUPPORT. One lemma per constructor: an instruction's encoding is selected by its own row of the opcode
map (spec 30_encoding.md R73). -/

namespace Sys2Proof.Laws.EncodesToItsRow

/-- The row with the instruction's mnemonic selects the instruction's encoding. -/
def Statement (i : Instr) : Prop :=
  ∃ r ∈ opcodeTable, r.mnemonic = i.mnemonic ∧ r.selects (encode i) = true

/-- A row that masks to the group alone. -/
theorem of_group {i : Instr} {w : Word} {r : OpcodeRow} (hr : r ∈ opcodeTable) (hn : r.mnemonic = i.mnemonic)
    (e : encode i = w) (hm : r.mask = 0xF000#16) (hv : r.pattern &&& 0x0FFF#16 = 0#16)
    (hg : opGroup w = opGroup r.pattern) : Statement i :=
  ⟨r, hr, hn, by rw [OpcodeRow.selects, e, hm, beq_iff_eq, and_group_eq_iff _ _ hv]; exact hg⟩

/-- A row that masks to the group and N. -/
theorem of_group_n {i : Instr} {w : Word} {r : OpcodeRow} (hr : r ∈ opcodeTable)
    (hn : r.mnemonic = i.mnemonic) (e : encode i = w) (hm : r.mask = 0xF00F#16)
    (hv : r.pattern &&& 0x0FF0#16 = 0#16) (hg : opGroup w = opGroup r.pattern)
    (hk : opN w = opN r.pattern) : Statement i :=
  ⟨r, hr, hn, by rw [OpcodeRow.selects, e, hm, beq_iff_eq, and_group_n_eq_iff _ _ hv]; exact ⟨hg, hk⟩⟩

/-- A row that masks to the group and NN. -/
theorem of_group_nn {i : Instr} {w : Word} {r : OpcodeRow} (hr : r ∈ opcodeTable)
    (hn : r.mnemonic = i.mnemonic) (e : encode i = w) (hm : r.mask = 0xF0FF#16)
    (hv : r.pattern &&& 0x0F00#16 = 0#16) (hg : opGroup w = opGroup r.pattern)
    (hk : opNN w = opNN r.pattern) : Statement i :=
  ⟨r, hr, hn, by rw [OpcodeRow.selects, e, hm, beq_iff_eq, and_group_nn_eq_iff _ _ hv]; exact ⟨hg, hk⟩⟩

theorem cls : Statement (.cls) :=
  ⟨⟨"CLS", 0xFFFF#16, 0x00E0#16⟩, by decide, rfl, by decide⟩

theorem ret : Statement (.ret) :=
  ⟨⟨"RET", 0xFFFF#16, 0x00EE#16⟩, by decide, rfl, by decide⟩

theorem jp (nnn : Addr12) : Statement (.jp nnn) :=
  of_group (r := ⟨"JP", 0xF000#16, 0x1000#16⟩) (by decide) rfl rfl rfl rfl (opGroup_wordNNN _ _)

theorem call (nnn : Addr12) : Statement (.call nnn) :=
  of_group (r := ⟨"CALL", 0xF000#16, 0x2000#16⟩) (by decide) rfl rfl rfl rfl (opGroup_wordNNN _ _)

theorem seImm (x : Reg) (nn : Byte) : Statement (.seImm x nn) :=
  of_group (r := ⟨"SE_IMM", 0xF000#16, 0x3000#16⟩) (by decide) rfl rfl rfl rfl (opGroup_wordXNN _ _ _)

theorem sneImm (x : Reg) (nn : Byte) : Statement (.sneImm x nn) :=
  of_group (r := ⟨"SNE_IMM", 0xF000#16, 0x4000#16⟩) (by decide) rfl rfl rfl rfl (opGroup_wordXNN _ _ _)

theorem seReg (x y : Reg) : Statement (.seReg x y) :=
  of_group_n (r := ⟨"SE_REG", 0xF00F#16, 0x5000#16⟩) (by decide) rfl rfl rfl rfl (opGroup_wordXYN _ _ _ _)
    (opN_wordXYN _ _ _ _)

theorem ldImm (x : Reg) (nn : Byte) : Statement (.ldImm x nn) :=
  of_group (r := ⟨"LD_IMM", 0xF000#16, 0x6000#16⟩) (by decide) rfl rfl rfl rfl (opGroup_wordXNN _ _ _)

theorem addImm (x : Reg) (nn : Byte) : Statement (.addImm x nn) :=
  of_group (r := ⟨"ADD_IMM", 0xF000#16, 0x7000#16⟩) (by decide) rfl rfl rfl rfl (opGroup_wordXNN _ _ _)

theorem ldReg (x y : Reg) : Statement (.ldReg x y) :=
  of_group_n (r := ⟨"LD_REG", 0xF00F#16, 0x8000#16⟩) (by decide) rfl rfl rfl rfl (opGroup_wordXYN _ _ _ _)
    (opN_wordXYN _ _ _ _)

theorem orReg (x y : Reg) : Statement (.orReg x y) :=
  of_group_n (r := ⟨"OR", 0xF00F#16, 0x8001#16⟩) (by decide) rfl rfl rfl rfl (opGroup_wordXYN _ _ _ _)
    (opN_wordXYN _ _ _ _)

theorem andReg (x y : Reg) : Statement (.andReg x y) :=
  of_group_n (r := ⟨"AND", 0xF00F#16, 0x8002#16⟩) (by decide) rfl rfl rfl rfl (opGroup_wordXYN _ _ _ _)
    (opN_wordXYN _ _ _ _)

theorem xorReg (x y : Reg) : Statement (.xorReg x y) :=
  of_group_n (r := ⟨"XOR", 0xF00F#16, 0x8003#16⟩) (by decide) rfl rfl rfl rfl (opGroup_wordXYN _ _ _ _)
    (opN_wordXYN _ _ _ _)

theorem addReg (x y : Reg) : Statement (.addReg x y) :=
  of_group_n (r := ⟨"ADD_REG", 0xF00F#16, 0x8004#16⟩) (by decide) rfl rfl rfl rfl (opGroup_wordXYN _ _ _ _)
    (opN_wordXYN _ _ _ _)

theorem sub (x y : Reg) : Statement (.sub x y) :=
  of_group_n (r := ⟨"SUB", 0xF00F#16, 0x8005#16⟩) (by decide) rfl rfl rfl rfl (opGroup_wordXYN _ _ _ _)
    (opN_wordXYN _ _ _ _)

theorem shr (x y : Reg) : Statement (.shr x y) :=
  of_group_n (r := ⟨"SHR", 0xF00F#16, 0x8006#16⟩) (by decide) rfl rfl rfl rfl (opGroup_wordXYN _ _ _ _)
    (opN_wordXYN _ _ _ _)

theorem subn (x y : Reg) : Statement (.subn x y) :=
  of_group_n (r := ⟨"SUBN", 0xF00F#16, 0x8007#16⟩) (by decide) rfl rfl rfl rfl (opGroup_wordXYN _ _ _ _)
    (opN_wordXYN _ _ _ _)

theorem shl (x y : Reg) : Statement (.shl x y) :=
  of_group_n (r := ⟨"SHL", 0xF00F#16, 0x800E#16⟩) (by decide) rfl rfl rfl rfl (opGroup_wordXYN _ _ _ _)
    (opN_wordXYN _ _ _ _)

theorem sneReg (x y : Reg) : Statement (.sneReg x y) :=
  of_group_n (r := ⟨"SNE_REG", 0xF00F#16, 0x9000#16⟩) (by decide) rfl rfl rfl rfl (opGroup_wordXYN _ _ _ _)
    (opN_wordXYN _ _ _ _)

theorem ldI (nnn : Addr12) : Statement (.ldI nnn) :=
  of_group (r := ⟨"LD_I", 0xF000#16, 0xA000#16⟩) (by decide) rfl rfl rfl rfl (opGroup_wordNNN _ _)

theorem jpV0 (nnn : Addr12) : Statement (.jpV0 nnn) :=
  of_group (r := ⟨"JP_V0", 0xF000#16, 0xB000#16⟩) (by decide) rfl rfl rfl rfl (opGroup_wordNNN _ _)

theorem rnd (x : Reg) (nn : Byte) : Statement (.rnd x nn) :=
  of_group (r := ⟨"RND", 0xF000#16, 0xC000#16⟩) (by decide) rfl rfl rfl rfl (opGroup_wordXNN _ _ _)

theorem drw (x y : Reg) (n : Fin 16) : Statement (.drw x y n) :=
  of_group (r := ⟨"DRW", 0xF000#16, 0xD000#16⟩) (by decide) rfl rfl rfl rfl (opGroup_wordXYN _ _ _ _)

theorem skp (x : Reg) : Statement (.skp x) :=
  of_group_nn (r := ⟨"SKP", 0xF0FF#16, 0xE09E#16⟩) (by decide) rfl rfl rfl rfl (opGroup_wordXNN _ _ _)
    (opNN_wordXNN _ _ _)

theorem sknp (x : Reg) : Statement (.sknp x) :=
  of_group_nn (r := ⟨"SKNP", 0xF0FF#16, 0xE0A1#16⟩) (by decide) rfl rfl rfl rfl (opGroup_wordXNN _ _ _)
    (opNN_wordXNN _ _ _)

theorem ldVxDt (x : Reg) : Statement (.ldVxDt x) :=
  of_group_nn (r := ⟨"LD_VX_DT", 0xF0FF#16, 0xF007#16⟩) (by decide) rfl rfl rfl rfl (opGroup_wordXNN _ _ _)
    (opNN_wordXNN _ _ _)

theorem ldVxK (x : Reg) : Statement (.ldVxK x) :=
  of_group_nn (r := ⟨"LD_VX_K", 0xF0FF#16, 0xF00A#16⟩) (by decide) rfl rfl rfl rfl (opGroup_wordXNN _ _ _)
    (opNN_wordXNN _ _ _)

theorem ldDtVx (x : Reg) : Statement (.ldDtVx x) :=
  of_group_nn (r := ⟨"LD_DT_VX", 0xF0FF#16, 0xF015#16⟩) (by decide) rfl rfl rfl rfl (opGroup_wordXNN _ _ _)
    (opNN_wordXNN _ _ _)

theorem ldStVx (x : Reg) : Statement (.ldStVx x) :=
  of_group_nn (r := ⟨"LD_ST_VX", 0xF0FF#16, 0xF018#16⟩) (by decide) rfl rfl rfl rfl (opGroup_wordXNN _ _ _)
    (opNN_wordXNN _ _ _)

theorem addI (x : Reg) : Statement (.addI x) :=
  of_group_nn (r := ⟨"ADD_I", 0xF0FF#16, 0xF01E#16⟩) (by decide) rfl rfl rfl rfl (opGroup_wordXNN _ _ _)
    (opNN_wordXNN _ _ _)

theorem ldF (x : Reg) : Statement (.ldF x) :=
  of_group_nn (r := ⟨"LD_F", 0xF0FF#16, 0xF029#16⟩) (by decide) rfl rfl rfl rfl (opGroup_wordXNN _ _ _)
    (opNN_wordXNN _ _ _)

theorem ldB (x : Reg) : Statement (.ldB x) :=
  of_group_nn (r := ⟨"LD_B", 0xF0FF#16, 0xF033#16⟩) (by decide) rfl rfl rfl rfl (opGroup_wordXNN _ _ _)
    (opNN_wordXNN _ _ _)

theorem stRegs (x : Reg) : Statement (.stRegs x) :=
  of_group_nn (r := ⟨"ST_REGS", 0xF0FF#16, 0xF055#16⟩) (by decide) rfl rfl rfl rfl (opGroup_wordXNN _ _ _)
    (opNN_wordXNN _ _ _)

theorem ldRegs (x : Reg) : Statement (.ldRegs x) :=
  of_group_nn (r := ⟨"LD_REGS", 0xF0FF#16, 0xF065#16⟩) (by decide) rfl rfl rfl rfl (opGroup_wordXNN _ _ _)
    (opNN_wordXNN _ _ _)

end Sys2Proof.Laws.EncodesToItsRow
end

