-- ==== Sys2Proof/Tests/Slice0.lean ====
section
/-! SUPPORT. Tests. Words come from the opcode map (spec 30_encoding.md R73) and expected results from the
vectors of 95_test_vectors.md, named in each comment. Then a witness for the hypotheses of each statement. -/

namespace Sys2Proof.Tests

open Sys2Proof Sys2Proof.Machine

/-! ### Helpers -/

/-- A next state with a property. -/
def after (r : Result) (p : State → Bool) : Bool :=
  match r with
  | .next t => p t
  | .fault _ => false
  | .refused _ => false

/-- One step on the word `w` placed at PC ends in a next state with a property. -/
def runs (s : State) (w : Nat) (p : State → Bool) : Bool := after (step (s.withFetchWord 16 w)) p

/-- The reset state with one register set. -/
def withV (r : Reg) (b : Byte) : State := State.reset.setReg r b

/-- The reset state with two registers set. -/
def withVV (r : Reg) (b : Byte) (q : Reg) (c : Byte) : State := (withV r b).setReg q c

/-- The same state of an instance whose SHIFT_SOURCE is VX. -/
def shiftVx (s : State) : State := { s with cfg := { s.cfg with shiftSource := .vx } }

/-- The reset state halted by a stack underflow. -/
def haltedState : State := State.reset.raise .stackUnderflow

/-- The reset state waiting for a key for V5. -/
def waitingState : State := State.reset.setRunState (.waitingForKey 5)

/-- The reset state with JP 0x200 in the last word of memory and PC there (FD1). -/
def lastWordState : State := (State.reset.jump 0xFFE#16).withFetchWord 16 0x1200

/-- The reset state with a CALL's return address on the stack (CF1). -/
def calledState : State := { State.reset with sp := 1, stack := State.reset.stack.set 0 0x206#16 }

/-! ### Well-formedness: an ill-formed term for each check -/

theorem test_wf_reference : referenceConfig.wf = true := by decide

theorem test_wf_capacity_low : Config.capacityOk { referenceConfig with stackCapacity := 11 } = false := by
  decide

theorem test_wf_capacity_high : Config.capacityOk { referenceConfig with stackCapacity := 17 } = false := by
  decide

theorem test_wf_font_base : Config.fontBaseOk { referenceConfig with fontBase := 0x1B1 } = false := by decide

theorem test_wf_font_data : Config.fontDataOk { referenceConfig with fontData := fontLow } = false := by decide

/-- FD5 to FD16: no row selects these words. -/
theorem test_wf_illegal_words :
    [0x0000#16, 0x0123#16, 0x01E0#16, 0x00E1#16, 0x5121#16, 0x912F#16, 0x8008#16, 0x800F#16, 0xE000#16,
      0xE09F#16, 0xF000#16, 0xF0FF#16].all (fun w => !legalWord w) = true := by decide

theorem test_wf_memory_order :
    Memory.wf (fun _ => 0#8) [(5, 1#8), (4, 1#8)] = false ∧ Memory.wf (fun _ => 0#8) [(4096, 1#8)] = false ∧
    Memory.wf (fun _ => 0#8) [(4, 0#8)] = false := by decide

/-! ### Decoding: every constructor, from words written out from R73 -/

theorem test_decode_control_flow :
    decode 0x00EE#16 = some .ret ∧ decode 0x1ABC#16 = some (.jp 0xABC#12) ∧
    decode 0x2400#16 = some (.call 0x400#12) ∧ decode 0x3A42#16 = some (.seImm 10 0x42#8) ∧
    decode 0x4A42#16 = some (.sneImm 10 0x42#8) ∧ decode 0x5120#16 = some (.seReg 1 2) ∧
    decode 0x9120#16 = some (.sneReg 1 2) ∧ decode 0xB300#16 = some (.jpV0 0x300#12) := by decide

theorem test_decode_alu :
    decode 0x6A2B#16 = some (.ldImm 10 0x2B#8) ∧ decode 0x7003#16 = some (.addImm 0 0x03#8) ∧
    decode 0x8120#16 = some (.ldReg 1 2) ∧ decode 0x8121#16 = some (.orReg 1 2) ∧
    decode 0x8122#16 = some (.andReg 1 2) ∧ decode 0x8123#16 = some (.xorReg 1 2) ∧
    decode 0x8124#16 = some (.addReg 1 2) ∧ decode 0x8125#16 = some (.sub 1 2) ∧
    decode 0x8126#16 = some (.shr 1 2) ∧ decode 0x8127#16 = some (.subn 1 2) ∧
    decode 0x812E#16 = some (.shl 1 2) ∧ decode 0xC30F#16 = some (.rnd 3 0x0F#8) := by decide

theorem test_decode_index_memory :
    decode 0xA123#16 = some (.ldI 0x123#12) ∧ decode 0xF21E#16 = some (.addI 2) ∧
    decode 0xF229#16 = some (.ldF 2) ∧ decode 0xF233#16 = some (.ldB 2) ∧
    decode 0xFF55#16 = some (.stRegs 15) ∧ decode 0xF265#16 = some (.ldRegs 2) := by decide

theorem test_decode_display_keys_timers :
    decode 0x00E0#16 = some .cls ∧ decode 0xD12F#16 = some (.drw 1 2 15) ∧
    decode 0xE59E#16 = some (.skp 5) ∧ decode 0xE5A1#16 = some (.sknp 5) ∧
    decode 0xF507#16 = some (.ldVxDt 5) ∧ decode 0xF50A#16 = some (.ldVxK 5) ∧
    decode 0xF515#16 = some (.ldDtVx 5) ∧ decode 0xF518#16 = some (.ldStVx 5) := by decide

/-- R59: the byte at the lower address is the high byte. -/
theorem test_decode_bytes :
    decodeBytes [0x12#8, 0x34#8, 0x56#8] = .instr (.jp 0x234#12) [0x56#8] ∧
    decodeBytes [0x01#8, 0x23#8] = .unknownOpcode 0x0123#16 ∧ decodeBytes [0x12#8] = .truncated [0x12#8] ∧
    decodeTableWord 16 0x1234 = some (.jp 0x234#12) ∧ decodeTableWord 16 0x0123 = none := by decide

/-! ### Control flow (95_test_vectors.md 2.1) -/

/-- CF1 and CF2. -/
theorem test_ret :
    runs calledState 0x00EE (fun t => t.pc == 0x206#16 && t.sp == 0) = true ∧
    runs State.reset 0x00EE (fun t => t.pc == 0x200#16 && t.runState == .halted .stackUnderflow) = true := by
  decide

/-- CF3 and CF4. -/
theorem test_jp :
    runs State.reset 0x1ABC (fun t => t.pc == 0xABC#16) = true ∧
    runs State.reset 0x1FFE (fun t => t.pc == 0xFFE#16) = true := by decide

/-- CF5 and CF6. -/
theorem test_call :
    runs State.reset 0x2400 (fun t => t.pc == 0x400#16 && t.sp == 1 && t.stack.head? == some 0x202#16) = true ∧
    runs { State.reset with sp := 16 } 0x2400
      (fun t => t.pc == 0x200#16 && t.sp == 16 && t.runState == .halted .stackOverflow) = true := by decide

/-- CF7: STACK_CAPACITY = 12. -/
theorem test_call_capacity_12 :
    runs { State.initial { referenceConfig with stackCapacity := 12 } with sp := 12 } 0x2400
      (fun t => t.runState == .halted .stackOverflow) = true := by decide

/-- CF8 and CF9. -/
theorem test_se_imm :
    runs (withV 10 0x42#8) 0x3A42 (fun t => t.pc == 0x204#16) = true ∧
    runs (withV 10 0x41#8) 0x3A42 (fun t => t.pc == 0x202#16) = true := by decide

/-- CF10 and CF11. -/
theorem test_sne_imm :
    runs (withV 10 0x42#8) 0x4A42 (fun t => t.pc == 0x202#16) = true ∧
    runs (withV 10 0x41#8) 0x4A42 (fun t => t.pc == 0x204#16) = true := by decide

/-- CF12 and CF13. -/
theorem test_se_reg :
    runs (withVV 1 7#8 2 7#8) 0x5120 (fun t => t.pc == 0x204#16) = true ∧
    runs (withVV 1 7#8 2 8#8) 0x5120 (fun t => t.pc == 0x202#16) = true := by decide

/-- CF14 and CF15. -/
theorem test_sne_reg :
    runs (withVV 1 7#8 2 7#8) 0x9120 (fun t => t.pc == 0x202#16) = true ∧
    runs (withVV 1 7#8 2 8#8) 0x9120 (fun t => t.pc == 0x204#16) = true := by decide

/-- CF16 and CF17. -/
theorem test_jp_v0 :
    runs (withV 0 0x10#8) 0xB300 (fun t => t.pc == 0x310#16) = true ∧
    runs (withV 0 0xFF#8) 0xBFFF (fun t => t.pc == 0x10FE#16) = true := by decide

/-! ### Fetch and decode (2.2) -/

/-- FD1: the last word of memory is fetchable. -/
theorem test_fetch_last_word : after (step lastWordState) (fun t => t.pc == 0x200#16) = true := by decide

/-- FD2 and FD4. -/
theorem test_fetch_out_of_bounds :
    after (step (State.reset.jump 0xFFF#16))
      (fun t => t.pc == 0xFFF#16 && t.runState == .halted (.memoryOutOfBounds 0x1000)) = true ∧
    after (step (State.reset.jump 0x10FE#16))
      (fun t => t.runState == .halted (.memoryOutOfBounds 0x10FE)) = true := by decide

/-- FD5, which is also IN4, and FD6. -/
theorem test_unknown_opcode :
    after (step State.reset) (fun t => t.runState == .halted (.unknownOpcode 0x0000#16 0x200#16)) = true ∧
    runs State.reset 0x0123 (fun t => t.runState == .halted (.unknownOpcode 0x0123#16 0x200#16)) = true := by
  decide

/-- FD17: a halted instance returns its error again and changes nothing. -/
theorem test_halted_step : stepCall haltedState = (haltedState, .error .stackUnderflow) := rfl

/-! ### Arithmetic and logic (2.3) -/

/-- AL1. -/
theorem test_ld_imm : runs State.reset 0x6AFF (fun t => t.reg 10 == 0xFF#8 && t.pc == 0x202#16) = true := by
  decide

/-- AL2 and AL3. -/
theorem test_add_imm :
    runs (withV 10 0x01#8) 0x7AFF (fun t => t.reg 10 == 0#8 && t.reg 15 == 0#8) = true ∧
    runs (withV 15 0xFF#8) 0x7F01 (fun t => t.reg 15 == 0#8) = true := by decide

/-- AL4. -/
theorem test_ld_reg : runs (withV 2 0x33#8) 0x8120 (fun t => t.reg 1 == 0x33#8 && t.reg 2 == 0x33#8) = true := by
  decide

/-- AL5 and AL8. -/
theorem test_or :
    runs (withVV 1 0xF0#8 2 0x0F#8) 0x8121 (fun t => t.reg 1 == 0xFF#8 && t.reg 15 == 0#8) = true ∧
    runs (withVV 15 0x80#8 1 0x01#8) 0x8F11 (fun t => t.reg 15 == 0x81#8) = true := by decide

/-- AL6. -/
theorem test_and : runs (withVV 1 0xF0#8 2 0x3C#8) 0x8122 (fun t => t.reg 1 == 0x30#8) = true := by decide

/-- AL7. -/
theorem test_xor : runs (withVV 1 0xFF#8 2 0x0F#8) 0x8123 (fun t => t.reg 1 == 0xF0#8) = true := by decide

/-- AL9 and AL14: the sum 02 is overwritten by the flag. -/
theorem test_add_reg :
    runs (withVV 1 0xFF#8 2 0x01#8) 0x8124 (fun t => t.reg 1 == 0#8 && t.reg 15 == 1#8) = true ∧
    runs (withVV 15 0x01#8 1 0x01#8) 0x8F14 (fun t => t.reg 15 == 0#8) = true := by decide

/-- AL15 and AL16. -/
theorem test_sub :
    runs (withVV 1 0x05#8 2 0x05#8) 0x8125 (fun t => t.reg 1 == 0#8 && t.reg 15 == 1#8) = true ∧
    runs (withVV 1 0x03#8 2 0x05#8) 0x8125 (fun t => t.reg 1 == 0xFE#8 && t.reg 15 == 0#8) = true := by decide

/-- AL18 and AL20. -/
theorem test_subn :
    runs (withVV 1 0x05#8 2 0x03#8) 0x8127 (fun t => t.reg 1 == 0xFE#8 && t.reg 15 == 0#8) = true ∧
    runs (withVV 15 0x01#8 2 0x10#8) 0x8F27 (fun t => t.reg 15 == 1#8) = true := by decide

/-- AL21 and AL22. -/
theorem test_shr :
    runs (withVV 1 0x04#8 2 0x03#8) 0x8126 (fun t => t.reg 1 == 1#8 && t.reg 15 == 1#8) = true ∧
    runs (shiftVx (withVV 1 0x04#8 2 0x03#8)) 0x8126 (fun t => t.reg 1 == 2#8 && t.reg 15 == 0#8) = true := by
  decide

/-- AL23 and AL24. -/
theorem test_shl :
    runs (withVV 1 0x01#8 2 0x80#8) 0x812E (fun t => t.reg 1 == 0#8 && t.reg 15 == 1#8) = true ∧
    runs (shiftVx (withVV 1 0x01#8 2 0x80#8)) 0x812E (fun t => t.reg 1 == 2#8 && t.reg 15 == 0#8) = true := by
  decide

/-- AL29: CXNN with NN = 00 gives 00 for any draw (by R143, x AND 0 = 0), and each execution is one draw. -/
theorem test_rnd : ∃ t, exec (.rnd 3 0#8) State.reset = .next t ∧ t.reg 3 = 0#8 ∧ t.draws = 1 :=
  ⟨_, rfl, by simp, rfl⟩

/-! ### Index register and memory (2.4) -/

/-- IM1. -/
theorem test_ld_i : runs State.reset 0xA123 (fun t => t.i == 0x123#16) = true := by decide

/-- IM2 and IM4. -/
theorem test_add_i :
    runs ((withV 2 0x02#8).setI 0xFFFF#16) 0xF21E (fun t => t.i == 0x0001#16) = true ∧
    runs ((withVV 2 0x10#8 15 0x77#8).setI 0x100#16) 0xF21E (fun t => t.i == 0x110#16 && t.reg 15 == 0x77#8)
      = true := by decide

/-- IM5 and IM6. -/
theorem test_ld_f :
    runs (withV 2 0x1A#8) 0xF229 (fun t => t.i == 0x082#16) = true ∧
    runs (withV 2 0x0F#8) 0xF229 (fun t => t.i == 0x09B#16) = true := by decide

/-- IM7 and IM11. -/
theorem test_ld_b :
    runs ((withV 2 0xFF#8).setI 0x300#16) 0xF233
      (fun t => t.peek 0x300 == 2#8 && t.peek 0x301 == 5#8 && t.peek 0x302 == 5#8) = true ∧
    runs ((withV 2 0x64#8).setI 0xFFE#16) 0xF233
      (fun t => t.peek 0xFFE == 0#8 && t.runState == .halted (.memoryOutOfBounds 0x1000)) = true := by decide

/-- IM12 and IM14. -/
theorem test_st_regs :
    runs (((withVV 0 1#8 1 2#8).setReg 2 3#8).setI 0x300#16) 0xF255
      (fun t => t.peek 0x300 == 1#8 && t.peek 0x302 == 3#8 && t.peek 0x303 == 0#8 && t.i == 0x300#16) = true ∧
    runs ((withV 15 0xEE#8).setI 0xFF0#16) 0xFF55 (fun t => t.peek 0xFFF == 0xEE#8) = true := by decide

/-- IM16 and IM18. -/
theorem test_ld_regs :
    runs ((State.reset.poke 0x300 [0x0A#8, 0x0B#8, 0x0C#8, 0x0D#8]).setI 0x300#16) 0xF265
      (fun t => t.reg 0 == 0x0A#8 && t.reg 2 == 0x0C#8 && t.reg 3 == 0#8 && t.i == 0x300#16) = true ∧
    runs (State.reset.setI 0xFF1#16) 0xFF65 (fun t => t.runState == .halted (.memoryOutOfBounds 0x1000))
      = true := by decide

/-! ### Display (2.5) -/

/-- DS1. -/
theorem test_cls :
    runs { State.reset with screen := (Grid.blank.toggle 0 0).toggle 31 63 } 0x00E0
      (fun t => !t.screen.pixel 0 0 && !t.screen.pixel 31 63 && t.dirty) = true := by decide

/-- DS4: one pixel erased, one set. -/
theorem test_drw_collision :
    runs { (State.reset.poke 0x300 [0xC0#8]).setI 0x300#16 with
        screen := (Grid.blank.toggle 0 0).toggle 0 5 } 0xD121
      (fun t => !t.screen.pixel 0 0 && t.screen.pixel 0 1 && t.screen.pixel 0 5 && t.reg 15 == 1#8) = true := by
  decide

/-- DS6: the start is reduced mod 64 and mod 32, bit 7 is the leftmost column. -/
theorem test_drw_wrap :
    runs (((withVV 1 0x46#8 2 0x21#8).poke 0x300 [0x81#8, 0x01#8]).setI 0x300#16) 0xD122
      (fun t => t.screen.pixel 1 6 && t.screen.pixel 1 13 && t.screen.pixel 2 13 && !t.screen.pixel 2 6 &&
        t.reg 15 == 0#8 && t.dirty) = true := by decide

/-! ### Keys and timers (2.6) -/

/-- KT1 and KT2. -/
theorem test_skp :
    runs ((withV 5 7#8).writeKey 7 true) 0xE59E (fun t => t.pc == 0x204#16) = true ∧
    runs (withV 5 7#8) 0xE59E (fun t => t.pc == 0x202#16) = true := by decide

/-- KT3 and KT4. -/
theorem test_sknp :
    runs ((withV 5 7#8).writeKey 7 true) 0xE5A1 (fun t => t.pc == 0x202#16) = true ∧
    runs (withV 5 7#8) 0xE5A1 (fun t => t.pc == 0x204#16) = true := by decide

/-- KT6, KT12, KT13. -/
theorem test_timers :
    runs (State.reset.setDt 0x2A#8) 0xF507 (fun t => t.reg 5 == 0x2A#8) = true ∧
    runs (withV 5 0x2A#8) 0xF515 (fun t => t.dt == 0x2A#8 && t.st == 0#8) = true ∧
    runs (withV 5 0x2A#8) 0xF518 (fun t => t.st == 0x2A#8 && t.isBeeping) = true := by decide

/-- KT7. -/
theorem test_ld_vx_k :
    runs State.reset 0xF50A (fun t => t.runState == .waitingForKey 5 && t.pc == 0x200#16) = true := by decide

/-- KT9, KT10, KT11 and KT17. -/
theorem test_set_key :
    (waitingState.setKey 3 false).map (·.runState) = some (.waitingForKey 5) ∧
    (waitingState.setKey 7 true).map (fun t => (t.reg 5, t.pc, t.runState)) =
      some (7#8, 0x202#16, .running) ∧
    ((waitingState.setRunState (.waitingForKey 15)).setKey 0xC true).map (·.reg 15) = some 0x0C#8 ∧
    (State.reset.setKey 16 true).isNone = true := by decide

/-- KT14, KT15 and KT16. -/
theorem test_tick :
    (State.reset.setDt 1#8).tickTimers.dt = 0#8 ∧ (State.reset.setDt 1#8).tickTimers.st = 0#8 ∧
    (State.reset.setSt 2#8).tickTimers.isBeeping = true ∧
    (State.reset.setSt 2#8).tickTimers.tickTimers.isBeeping = false ∧
    (haltedState.setDt 3#8).tickTimers.dt = 2#8 ∧
    (haltedState.setDt 3#8).tickTimers.runState = .halted .stackUnderflow := by decide

/-- R240: what clear_dirty leaves after a draw. -/
theorem test_clear_dirty :
    (State.reset.setScreen Grid.blank).isDirty = true ∧
    ((State.reset.setScreen Grid.blank).apply .clearDirty).isDirty = false := by decide

/-! ### Initialisation (2.7) -/

/-- IN3: 2561 bytes with PROGRAM_ORIGIN = 0x600. -/
theorem test_new_too_large :
    State.new { referenceConfig with programOrigin := .at600 } (List.replicate 2561 0#8) =
      .error (.romTooLarge 2561 2560) := by
  unfold State.new
  rw [List.length_replicate]
  rfl

/-- IN5. -/
theorem test_new_font :
    [State.reset.peek 0x050, State.reset.peek 0x051, State.reset.peek 0x09B, State.reset.peek 0x09F,
      State.reset.peek 0x0A0] = [0xF0#8, 0x90#8, 0xF0#8, 0x80#8, 0x00#8] := by decide

/-- `new` with an empty ROM and the reference configuration is the reset state. -/
theorem test_new_reset : State.new referenceConfig [] = .ok State.reset := rfl

/-- P6 step by step is E7: a CALL with 16 frames in use overflows, and the halted instance says so again. -/
theorem test_core_step : ∃ t, Sys2Proof.core.step { State.reset.withFetchWord 16 0x2200 with sp := 16 } = .next t ∧
    Sys2Proof.core.step t = .fault (.halted .stackOverflow) := ⟨_, rfl, rfl⟩

/-! ### Witnesses: the hypotheses of each statement are met together -/

theorem witness_EncodeOfDecodeIsIdentity : decode 0x1ABC#16 = some (.jp 0xABC#12) := by decide

theorem witness_DecoderAcceptsExactlyTheOpcodeMap :
    decode 0xF065#16 = some (.ldRegs 0) ∧ ⟨"LD_REGS", 0xF0FF#16, 0xF065#16⟩ ∈ opcodeTable := by decide

theorem witness_StepRunsTheDecodedInstruction :
    lastWordState.runState = .running ∧ lastWordState.pc.toNat + 1 ≤ 4095 ∧
    decode (lastWordState.peek lastWordState.pc.toNat ++ lastWordState.peek (lastWordState.pc.toNat + 1)) =
      some (.jp 0x200#12) := by decide

theorem witness_StepCallFollowsRunState :
    haltedState.runState = .halted .stackUnderflow ∧ waitingState.runState = .waitingForKey 5 ∧
    ((State.reset.jump 0xFFF#16).runState = .running ∧ 4095 < (State.reset.jump 0xFFF#16).pc.toNat + 1) ∧
    ((State.reset.jump 0xFFE#16).runState = .running ∧ (State.reset.jump 0xFFE#16).pc.toNat + 1 ≤ 4095 ∧
      decode (State.reset.jump 0xFFE#16).wordAtPc = none) ∧
    (lastWordState.runState = .running ∧ lastWordState.pc.toNat + 1 ≤ 4095 ∧
      decode lastWordState.wordAtPc = some (.jp 0x200#12)) := by decide

/-- The two ends of a running call: a RET that underflows, and a jump. -/
theorem witness_StepCallFollowsRunState_returns :
    (∃ t, decode 0x00EE#16 = some .ret ∧ exec .ret State.reset = .next t ∧ t.runState = .halted .stackUnderflow) ∧
    (∃ t, exec (.jp 0x200#12) lastWordState = .next t ∧ ∀ e, t.runState ≠ .halted e) :=
  ⟨⟨_, by decide, rfl, rfl⟩, _, rfl, fun _ h => by cases h⟩

theorem witness_FatalErrorsArePrecise :
    ∃ t, State.reset.live = true ∧ step State.reset = .next t ∧
      t.runState = .halted (.unknownOpcode 0x0000#16 0x200#16) := ⟨_, rfl, rfl, rfl⟩

theorem witness_StepHaltsExactlyOnListedCauses :
    State.reset.runState = .running ∧ State.reset.stepError = some (.unknownOpcode 0x0000#16 0x200#16) ∧
    (State.reset.jump 0xFFF#16).stepError = some (.memoryOutOfBounds 4096) ∧
    (State.reset.withFetchWord 16 0x00EE).stepError = some .stackUnderflow ∧ lastWordState.stepError = none := by
  decide

theorem witness_StepFaultsOnlyWhenHalted : step haltedState = .fault (.halted .stackUnderflow) := rfl

theorem witness_HaltedIsForEver : haltedState.runState = .halted .stackUnderflow := rfl

theorem witness_WaitEndsOnlyByKeyPress :
    waitingState.runState = .waitingForKey 5 ∧
    ∀ k, k < 16 → HostOp.setKey k true ∉ [.step, .tickTimers, .setKey 15 false, .setKey 16 true] := by
  refine ⟨rfl, fun k lt m => ?_⟩
  simp only [List.mem_cons, reduceCtorEq, HostOp.setKey.injEq, Bool.true_eq_false, and_false, and_true,
    List.not_mem_nil, or_false, false_or] at m
  omega

theorem witness_RegisterWritersAreListed :
    ∃ t, exec (.sub 1 2) State.reset = .next t ∧ Instr.writesReg (.sub 1 2) 3 = false := ⟨_, rfl, rfl⟩

theorem witness_IndexWritersAreListed : ∃ t, exec (.stRegs 15) State.reset = .next t := ⟨_, rfl⟩

theorem witness_StackWritersAreListed : ∃ t, exec .ret calledState = .next t := ⟨_, rfl⟩

theorem witness_TimerWritersAreListed : ∃ t, exec (.ldVxDt 1) State.reset = .next t := ⟨_, rfl⟩

theorem witness_DisplayWritersAreListed :
    ∃ t, exec (.ldI 1#12) State.reset = .next t ∧ (State.reset.setScreen Grid.blank).dirty = true := ⟨_, rfl, rfl⟩

theorem witness_MemoryWritersAreListed :
    ∃ t, Memory.wf (resetByte State.reset.cfg) State.reset.mem = true ∧ exec (.ldB 1) State.reset = .next t ∧
      ¬ ((Instr.storeRange (.ldB 1) State.reset).1 ≤ 3 ∧
        3 < (Instr.storeRange (.ldB 1) State.reset).1 + (Instr.storeRange (.ldB 1) State.reset).2) :=
  ⟨_, rfl, rfl, by decide⟩

theorem witness_KeysAndRunStateFrame : ∃ t, exec (.ldVxK 5) State.reset = .next t := ⟨_, rfl⟩

theorem witness_NextPcIsAsListed : ∃ t, exec (.seImm 1 0#8) State.reset = .next t := ⟨_, rfl⟩

theorem witness_InstructionCompletesOrTakesItsError :
    Instr.errorAt .ret State.reset = some .stackUnderflow ∧ Instr.errorAt .ret calledState = none ∧
    Instr.errorAt (.ldB 1) (State.reset.setI 0xFFE#16) = some (.memoryOutOfBounds 4096) ∧
    Instr.errorAt (.ldB 1) (State.reset.setI 0xFFD#16) = none ∧
    Instr.errorAt (.drw 1 2 1) (State.reset.setI 0x1000#16) = some (.memoryOutOfBounds 4096) ∧
    Instr.errorAt (.drw 1 2 0) (State.reset.setI 0xFFFF#16) = none := by decide

theorem witness_StepDoesNotReadSoundTimerOrDirty : ∃ t, step lastWordState = .next t := ⟨_, rfl⟩

theorem witness_StepDoesNotReadDeadStackEntries :
    ∃ t, (calledState.stack.set 1 7#16).length = calledState.stack.length ∧
      (∀ k, k < calledState.sp → (calledState.stack.set 1 7#16)[k]? = calledState.stack[k]?) ∧
      calledState.sp ≤ calledState.stack.length ∧ step calledState = .next t :=
  ⟨_, rfl, by decide, by decide, rfl⟩

theorem witness_AddRegistersWithCarry : (1 : Reg) ≠ regF := by decide

theorem witness_SubtractWithNotBorrow : (14 : Reg) ≠ regF := by decide

theorem witness_ReverseSubtractWithNotBorrow : (0 : Reg) ≠ regF := by decide

/-- For both shift sources. -/
theorem witness_ShiftsByOneBit :
    (1 : Reg) ≠ regF ∧
    (0x81 : Nat) = (match (withVV 1 0x40#8 2 0x81#8).cfg.shiftSource with
      | .vy => ((withVV 1 0x40#8 2 0x81#8).reg 2).toNat | .vx => ((withVV 1 0x40#8 2 0x81#8).reg 1).toNat) ∧
    (0x40 : Nat) = (match (shiftVx (withVV 1 0x40#8 2 0x81#8)).cfg.shiftSource with
      | .vy => ((shiftVx (withVV 1 0x40#8 2 0x81#8)).reg 2).toNat
      | .vx => ((shiftVx (withVV 1 0x40#8 2 0x81#8)).reg 1).toNat) := by
  decide

theorem witness_RandomByteIsMasked : (0x00 : Byte) = 0#8 ∧ (4 : Reg) ≠ 3 := by decide

theorem witness_CallPushesReturnAddress :
    ({ State.reset with sp := 15 } : State).sp < State.reset.cfg.stackCapacity ∧
    State.reset.stack.length = State.reset.cfg.stackCapacity := by decide

theorem witness_ReturnPopsIntoPc : 0 < calledState.sp ∧ calledState.stack[calledState.sp - 1]? = some 0x206#16 := by
  decide

theorem witness_CallThenReturnResumes :
    State.reset.sp < State.reset.cfg.stackCapacity ∧
    State.reset.stack.length = State.reset.cfg.stackCapacity := by decide

theorem witness_IndexArithmetic :
    ({ referenceConfig with fontBase := 0x1B0 } : Config).fontBase + 80 ≤ 0x200 ∧
    State.reset.cfg.fontBase + 80 ≤ 0x200 := by decide

theorem witness_BcdStoresThreeDigits :
    Memory.wf (resetByte State.reset.cfg) (State.reset.setI 0xFFD#16).mem = true ∧
    (State.reset.setI 0xFFD#16).i.toNat + 2 ≤ 4095 := by decide

theorem witness_StoreRegisters :
    Memory.wf (resetByte State.reset.cfg) (State.reset.setI 0xFF0#16).mem = true ∧
    (State.reset.setI 0xFF0#16).i.toNat + (15 : Reg).val ≤ 4095 := by decide

theorem witness_LoadRegisters : (State.reset.setI 0xFFF#16).i.toNat + (0 : Reg).val ≤ 4095 := by decide

theorem witness_StoreThenLoadRestoresRegisters :
    Memory.wf (resetByte State.reset.cfg) (State.reset.setI 0xFFF#16).mem = true ∧
    (State.reset.setI 0xFFF#16).i.toNat + (0 : Reg).val ≤ 4095 := by decide

theorem witness_StoreIsSeenByTheNextFetch :
    Memory.wf (resetByte State.reset.cfg) State.reset.mem = true ∧ State.reset.runState = .running ∧
    1 ≤ (1 : Reg).val ∧ ((withVV 0 0x12#8 1 0x0A#8).setI 0x202#16).i = State.reset.pc + 2#16 ∧
    ((withVV 0 0x12#8 1 0x0A#8).setI 0x202#16).i.toNat + (1 : Reg).val ≤ 4095 ∧
    decode ((withVV 0 0x12#8 1 0x0A#8).reg 0 ++ (withVV 0 0x12#8 1 0x0A#8).reg 1) = some (.jp 0x20A#12) := by
  decide

theorem witness_DrawIsPointwiseXor :
    ((0 : Fin 16).val = 0 ∨ (State.reset.setI 0xFFFF#16).i.toNat + (0 : Fin 16).val ≤ 4096) ∧
    ((15 : Fin 16).val = 0 ∨ (State.reset.setI 0xFF1#16).i.toNat + (15 : Fin 16).val ≤ 4096) ∧
    [0xF0#8, 0x90#8] = (List.range (2 : Fin 16).val).map
      (fun r => (State.reset.setI 0x050#16).peek ((State.reset.setI 0x050#16).i.toNat + r)) := by decide

theorem witness_DrawTwiceRestoresTheScreen :
    (1 : Reg) ≠ regF ∧ (2 : Reg) ≠ regF ∧
    ((2 : Fin 16).val = 0 ∨ (State.reset.setI 0x050#16).i.toNat + (2 : Fin 16).val ≤ 4096) ∧
    [0xF0#8, 0x90#8] = (List.range (2 : Fin 16).val).map
      (fun r => (State.reset.setI 0x050#16).peek ((State.reset.setI 0x050#16).i.toNat + r)) := by decide

theorem witness_KeySkips :
    ((withV 5 15#8).reg 5).toNat = (15 : Fin 16).val ∧ 15 < ((withV 5 16#8).reg 5).toNat := by decide

theorem witness_TimerInstructions : (withV 5 1#8).reg 5 = 1#8 := by decide

theorem witness_KeyWaitThenPress : (4 : Reg) ≠ 5 ∧ (6 : Fin 16) ≠ 7 := by decide

theorem witness_KeyCallsOutsideAPress :
    16 ≤ 16 ∧ 15 < 16 ∧ (false = false ∨ ∀ x, waitingState.runState ≠ .waitingForKey x) ∧
    (∀ x, State.reset.runState ≠ .waitingForKey x) := by decide

theorem witness_RepeatedTicksStopAtZero :
    ∃ t, t = (State.reset.setDt 10#8).runOps (List.replicate 60 .tickTimers) := ⟨_, rfl⟩

/-- An instance that is not the reference one: the other origin and the smallest stack. -/
theorem witness_ResetValues :
    ∃ s, ({ referenceConfig with programOrigin := .at600, stackCapacity := 12 } : Config).wf = true ∧
      State.new { referenceConfig with programOrigin := .at600, stackCapacity := 12 } [0x12#8, 0x00#8] = .ok s :=
  ⟨_, by decide, rfl⟩

theorem witness_NewInstanceMemory :
    referenceConfig.wf = true ∧
    (List.replicate 3584 0x12#8 : List Byte).length ≤ 4096 - referenceConfig.programOrigin.addr :=
  ⟨by decide, by rw [List.length_replicate]; decide⟩

theorem witness_NewRejectsExactlyLargeRoms :
    4096 - referenceConfig.programOrigin.addr < (List.replicate 3585 0x12#8 : List Byte).length := by
  rw [List.length_replicate]; decide

/-- A running state, not the reset state, that meets the invariant: CF1's state after its CALL. -/
theorem called_inv : calledState.Inv where
  cfgOk := by decide
  memOk := rfl
  stackSize := by decide
  spBound := by decide
  returnBound := fun a ha => by
    rcases List.mem_or_eq_of_mem_set ha with h | h
    · rw [List.eq_of_mem_replicate h]; decide
    · rw [h]; decide
  pcBound := by decide
  waitingPc := fun x h => by cases h
  recordOk := by decide

theorem witness_NewMeetsTheInvariant :
    ∃ s, referenceConfig.wf = true ∧ State.new referenceConfig [0x12#8, 0x00#8] = .ok s := ⟨_, by decide, rfl⟩

theorem witness_StepKeepsTheInvariant : ∃ t, calledState.Inv ∧ step calledState = .next t :=
  ⟨_, called_inv, rfl⟩

theorem witness_HostTransactionsKeepTheInvariant : calledState.Inv := called_inv

end Sys2Proof.Tests
end

section
/-! PROOFS. The effect of an instruction whose check holds, and `exec` as that effect or the listed error. -/

namespace Sys2Proof.Machine

/-! ### The key test changes nothing but the count of draws -/

theorem State.keyTest_state_eq (s : State) (x : Reg) :
    (s.keyTest x).2 = { s with draws := (s.keyTest x).2.draws } := by
  rcases s.keyTest_state x with h | h
  · rw [h]
  · rw [h]; rfl

section KeyTestFields

variable (s : State) (x : Reg)

@[simp] theorem State.keyTest_v : (s.keyTest x).2.v = s.v := by rw [s.keyTest_state_eq x]
@[simp] theorem State.keyTest_i : (s.keyTest x).2.i = s.i := by rw [s.keyTest_state_eq x]
@[simp] theorem State.keyTest_pc : (s.keyTest x).2.pc = s.pc := by rw [s.keyTest_state_eq x]
@[simp] theorem State.keyTest_sp : (s.keyTest x).2.sp = s.sp := by rw [s.keyTest_state_eq x]
@[simp] theorem State.keyTest_stack : (s.keyTest x).2.stack = s.stack := by rw [s.keyTest_state_eq x]
@[simp] theorem State.keyTest_dt : (s.keyTest x).2.dt = s.dt := by rw [s.keyTest_state_eq x]
@[simp] theorem State.keyTest_st : (s.keyTest x).2.st = s.st := by rw [s.keyTest_state_eq x]
@[simp] theorem State.keyTest_mem : (s.keyTest x).2.mem = s.mem := by rw [s.keyTest_state_eq x]
@[simp] theorem State.keyTest_screen : (s.keyTest x).2.screen = s.screen := by rw [s.keyTest_state_eq x]
@[simp] theorem State.keyTest_dirty : (s.keyTest x).2.dirty = s.dirty := by rw [s.keyTest_state_eq x]
@[simp] theorem State.keyTest_keys : (s.keyTest x).2.keys = s.keys := by rw [s.keyTest_state_eq x]
@[simp] theorem State.keyTest_runState : (s.keyTest x).2.runState = s.runState := by
  rw [s.keyTest_state_eq x]
@[simp] theorem State.keyTest_cfg : (s.keyTest x).2.cfg = s.cfg := by rw [s.keyTest_state_eq x]
@[simp] theorem State.keyTest_reg (r : Reg) : (s.keyTest x).2.reg r = s.reg r := by
  rw [s.keyTest_state_eq x]; rfl

end KeyTestFields

/-! ### The bytes an instruction reads from I up -/

/-- `M[I], .., M[I + n - 1]`, without the bounds check. -/
def State.bytesAtI (s : State) (n : Nat) : List Byte := (List.range n).map fun j => s.peek (s.i.toNat + j)

theorem State.bytesAtI_length (s : State) (n : Nat) : (s.bytesAtI n).length = n := by
  simp [State.bytesAtI]

end Sys2Proof.Machine

namespace Sys2Proof

open Machine

/-- The state an instruction leaves where its own check holds (R95), apart from the check: `exec_eq` ties
it to `exec`. -/
def Instr.effect (i : Instr) (s : State) : State :=
  match i with
  | .cls => (s.setScreen Grid.blank).advance
  | .ret => { s with sp := s.sp - 1, pc := s.topEntry }
  | .jp nnn => s.jump (zext16 nnn)
  | .call nnn => { s with stack := s.stack.set s.sp (s.pc + 2#16), sp := s.sp + 1, pc := zext16 nnn }
  | .seImm x nn => s.skipIf (s.reg x == nn)
  | .sneImm x nn => s.skipIf (s.reg x != nn)
  | .seReg x y => s.skipIf (s.reg x == s.reg y)
  | .ldImm x nn => (s.setReg x nn).advance
  | .addImm x nn => (s.setReg x (s.reg x + nn)).advance
  | .ldReg x y => (s.setReg x (s.reg y)).advance
  | .orReg x y => (s.setReg x (s.reg x ||| s.reg y)).advance
  | .andReg x y => (s.setReg x (s.reg x &&& s.reg y)).advance
  | .xorReg x y => (s.setReg x (s.reg x ^^^ s.reg y)).advance
  | .addReg x y =>
    (s.setResultThenFlag x (s.reg x + s.reg y) (flagByte (carryOut (s.reg x) (s.reg y)))).advance
  | .sub x y =>
    (s.setResultThenFlag x (s.reg x - s.reg y) (flagByte (noBorrow (s.reg x) (s.reg y)))).advance
  | .shr x y =>
    (s.setResultThenFlag x (s.shiftOperand x y >>> 1) (bitOutRight (s.shiftOperand x y))).advance
  | .subn x y =>
    (s.setResultThenFlag x (s.reg y - s.reg x) (flagByte (noBorrow (s.reg y) (s.reg x)))).advance
  | .shl x y =>
    (s.setResultThenFlag x (s.shiftOperand x y <<< 1) (bitOutLeft (s.shiftOperand x y))).advance
  | .sneReg x y => s.skipIf (s.reg x != s.reg y)
  | .ldI nnn => (s.setI (zext16 nnn)).advance
  | .jpV0 nnn => s.jump (s.offsetTarget nnn)
  | .rnd x nn => (s.countDraw.setReg x (s.randomByte &&& nn)).advance
  | .drw x y n =>
    ((s.setScreen (s.plotSprite x y (s.bytesAtI n.val)).grid).setReg regF
      (flagByte (s.plotSprite x y (s.bytesAtI n.val)).collision)).advance
  | .skp x => (s.keyTest x).2.skipIf (s.keyTest x).1
  | .sknp x => (s.keyTest x).2.skipIf (!(s.keyTest x).1)
  | .ldVxDt x => (s.setReg x s.dt).advance
  | .ldVxK x => s.setRunState (.waitingForKey x)
  | .ldDtVx x => (s.setDt (s.reg x)).advance
  | .ldStVx x => (s.setSt (s.reg x)).advance
  | .addI x => (s.setI (s.i + zext16 (s.reg x))).advance
  | .ldF x => (s.setI (glyphAddress s.cfg (s.reg x))).advance
  | .ldB x => (s.poke s.i.toNat (bcdDigits (s.reg x))).advance
  | .stRegs x => (s.poke s.i.toNat (s.regsUpTo x)).advance
  | .ldRegs x => (s.setRegsFrom 0 (s.bytesAtI (x.val + 1))).advance

end Sys2Proof

namespace Sys2Proof.Machine

/-- Every instruction takes the error listed for it, or leaves its effect where none is listed (R12, R97). -/
theorem exec_eq (i : Instr) (s : State) :
    exec i s = .next ((i.errorAt s).elim (i.effect s) s.raise) := by
  cases i with
  | ret =>
    by_cases h : s.sp = 0
    · simp [Instr.errorAt, h, execRet_error h]
    · simp [Instr.errorAt, h, execRet_ok (Nat.pos_of_ne_zero h), Instr.effect]
  | call nnn =>
    by_cases h : s.cfg.stackCapacity ≤ s.sp
    · simp [Instr.errorAt, h, execCall_error h]
    · simp [Instr.errorAt, h, execCall_ok (Nat.lt_of_not_le h), Instr.effect]
  | drw x y n =>
    by_cases h : 0 < n.val ∧ 4096 < s.i.toNat + n.val
    · rw [execDrw_error h, Instr.errorAt, if_pos h]; rfl
    · rw [execDrw_ok (by omega), Instr.errorAt, if_neg h]; rfl
  | ldB x =>
    by_cases h : 4095 < s.i.toNat + 2
    · rw [execLdB_error h, Instr.errorAt, if_pos h]; rfl
    · rw [execLdB_ok (by omega), Instr.errorAt, if_neg h]; rfl
  | stRegs x =>
    by_cases h : 4095 < s.i.toNat + x.val
    · rw [execStRegs_error h, Instr.errorAt, if_pos h]; rfl
    · rw [execStRegs_ok (by omega), Instr.errorAt, if_neg h]; rfl
  | ldRegs x =>
    by_cases h : 4095 < s.i.toNat + x.val
    · rw [execLdRegs_error h, Instr.errorAt, if_pos h]; rfl
    · rw [execLdRegs_ok (by omega), Instr.errorAt, if_neg h]; rfl
  | _ => rfl

/-- Everything an instruction that answers a next state can have done. -/
theorem exec_cases {i : Instr} {s t : State} (h : exec i s = .next t) :
    (∃ e, i.errorAt s = some e ∧ t = s.raise e) ∨ (i.errorAt s = none ∧ t = i.effect s) := by
  rw [exec_eq, Host.Outcome.next.injEq] at h
  cases he : i.errorAt s with
  | some e => exact .inl ⟨e, rfl, by rw [← h, he]; rfl⟩
  | none => exact .inr ⟨rfl, by rw [← h, he]; rfl⟩

end Sys2Proof.Machine
end

section
/-! PROOFS. No step reads ST, the dirty flag or an entry at or above SP: `effect` commutes with a change of
the three pieces, and what an instruction leaves of each is a function of what the piece held. -/

namespace Sys2Proof

open Machine

/-- ST after an instruction, from ST before it (R33). -/
def Instr.stAfter (i : Instr) (s : State) (b : Byte) : Byte :=
  match i with
  | .ldStVx x => s.reg x
  | _ => b

/-- The dirty flag after an instruction, from the flag before it (R36, D24). -/
def Instr.dirtyAfter (i : Instr) (c : Bool) : Bool :=
  match i with
  | .cls => true
  | .drw _ _ _ => true
  | _ => c

/-- The stack entries after an instruction, from the entries before it (R30, R112). -/
def Instr.stackAfter (i : Instr) (s : State) (q : List Word) : List Word :=
  match i with
  | .call _ => q.set s.sp (s.pc + 2#16)
  | _ => q

end Sys2Proof

namespace Sys2Proof.Machine

/-- The state with another ST, dirty flag and stack. -/
def State.withUnread (s : State) (b : Byte) (c : Bool) (q : List Word) : State :=
  { s with st := b, dirty := c, stack := q }

theorem State.withUnread_self (s : State) : s.withUnread s.st s.dirty s.stack = s := rfl

section Unread

variable (s : State) (b : Byte) (c : Bool) (q : List Word)

theorem State.setRegsFrom_withUnread (k : Nat) (bs : List Byte) :
    (s.withUnread b c q).setRegsFrom k bs = (s.setRegsFrom k bs).withUnread b c q := by
  induction bs generalizing s k with
  | nil => rfl
  | cons v bs ih => exact ih (s.setReg (Fin.ofNat 16 k) v) (k + 1)

theorem State.keyTest_withUnread (x : Reg) :
    (s.withUnread b c q).keyTest x = ((s.keyTest x).1, (s.keyTest x).2.withUnread b c q) := by
  by_cases h : (s.reg x).toNat < 16
  · rw [State.keyTest_real (s := s) (k := ⟨_, h⟩) rfl]
    exact State.keyTest_real (s := s.withUnread b c q) rfl
  · rw [State.keyTest_none (s := s) (by omega)]
    exact State.keyTest_none (s := s.withUnread b c q) (show 15 < (s.reg x).toNat by omega)

theorem State.skipIf_withUnread (d : Bool) :
    (s.withUnread b c q).skipIf d = (s.skipIf d).withUnread b c q := by
  cases d <;> rfl

theorem fetchInstr_withUnread : (s.withUnread b c q).fetchInstr = s.fetchInstr := rfl

theorem errorAt_withUnread (i : Instr) : i.errorAt (s.withUnread b c q) = i.errorAt s := by
  cases i <;> rfl

variable {s b c q}

/-- A completed instruction commutes with a change of the unread pieces; RET needs its popped entry kept. -/
theorem effect_withUnread {i : Instr} (hret : i = .ret → q.getD (s.sp - 1) 0#16 = s.topEntry) :
    i.effect (s.withUnread b c q) =
      (i.effect s).withUnread (i.stAfter s b) (i.dirtyAfter c) (i.stackAfter s q) := by
  cases i with
  | ret =>
    have e : (s.withUnread b c q).topEntry = s.topEntry := hret rfl
    simp only [Instr.effect, e]
    rfl
  | seImm x nn | sneImm x nn | seReg x y | sneReg x y => exact s.skipIf_withUnread b c q _
  | skp x | sknp x =>
    simp only [Instr.effect, State.keyTest_withUnread]
    exact State.skipIf_withUnread _ b c q _
  | ldRegs x => exact congrArg State.advance (s.setRegsFrom_withUnread b c q 0 _)
  | _ => rfl

end Unread

theorem effect_st (i : Instr) (s : State) : (i.effect s).st = i.stAfter s s.st :=
  congrArg State.st (effect_withUnread (c := s.dirty) (q := s.stack) fun _ => rfl)

theorem effect_dirty (i : Instr) (s : State) : (i.effect s).dirty = i.dirtyAfter s.dirty :=
  congrArg State.dirty (effect_withUnread (b := s.st) (q := s.stack) fun _ => rfl)

theorem effect_stack (i : Instr) (s : State) : (i.effect s).stack = i.stackAfter s s.stack :=
  congrArg State.stack (effect_withUnread (b := s.st) (c := s.dirty) fun _ => rfl)

/-- FX18 alone writes ST. -/
theorem stAfter_cases (i : Instr) (s : State) : (∀ b, i.stAfter s b = b) ∨ ∃ x, i = .ldStVx x := by
  cases i with
  | ldStVx x => exact .inr ⟨x, rfl⟩
  | _ => exact .inl fun _ => rfl

/-- 00E0 and DXYN alone write the dirty flag, and they set it. -/
theorem dirtyAfter_cases (i : Instr) :
    (∀ c, i.dirtyAfter c = c) ∨ (∀ c, i.dirtyAfter c = true) ∧ (i = .cls ∨ ∃ x y n, i = .drw x y n) := by
  cases i with
  | cls => exact .inr ⟨fun _ => rfl, .inl rfl⟩
  | drw x y n => exact .inr ⟨fun _ => rfl, .inr ⟨x, y, n, rfl⟩⟩
  | _ => exact .inl fun _ => rfl

/-- CALL alone writes an entry. -/
theorem stackAfter_cases (i : Instr) (s : State) : (∀ q, i.stackAfter s q = q) ∨ ∃ nnn, i = .call nnn := by
  cases i with
  | call nnn => exact .inr ⟨nnn, rfl⟩
  | _ => exact .inl fun _ => rfl

/-- A step of a state with other unread pieces does what the step of the state does: it writes at most the run
state, or completes the same instruction. -/
theorem step_withUnread {s t : State} (b : Byte) (c : Bool) (q : List Word) (h : step s = .next t) :
    (∃ r, t = s.setRunState r ∧ step (s.withUnread b c q) = .next (t.withUnread b c q)) ∨
    ∃ i : Instr, i.errorAt s = none ∧ t = i.effect s ∧
      step (s.withUnread b c q) = .next (i.effect (s.withUnread b c q)) := by
  obtain ⟨x, hw, rfl⟩ | ⟨hr, e, hf, rfl⟩ | ⟨hr, i, hf, hx⟩ := step_cases h
  · exact .inl ⟨t.runState, rfl, step_waiting (s := t.withUnread b c q) hw⟩
  · exact .inl ⟨.halted e, rfl, step_running_error (s := s.withUnread b c q) hr hf⟩
  · rw [step_running_ok (s := s.withUnread b c q) hr hf, exec_eq, errorAt_withUnread]
    obtain ⟨e, he, rfl⟩ | ⟨hn, rfl⟩ := exec_cases hx
    · exact .inl ⟨.halted e, rfl, by rw [he]; rfl⟩
    · exact .inr ⟨i, hn, rfl, by rw [hn]; rfl⟩

/-- Settles O22: the pieces read stay, and each of the two is kept or overwritten with a value that does not
depend on it. -/
theorem stepDoesNotReadSoundTimerOrDirty : Obligations.StepDoesNotReadSoundTimerOrDirty := by
  intro s t b c h
  obtain ⟨r, rfl, hu⟩ | ⟨i, -, rfl, hu⟩ := step_withUnread b c s.stack h
  · exact ⟨_, hu, rfl, .inl rfl, .inl rfl⟩
  · rw [effect_withUnread fun _ => rfl, ← effect_stack] at hu
    refine ⟨_, hu, rfl, ?_, ?_⟩
    · obtain hk | ⟨x, rfl⟩ := stAfter_cases i s
      · exact .inl (hk b)
      · exact .inr rfl
    · obtain hk | ⟨hk, -⟩ := dirtyAfter_cases i
      · exact .inl (hk c)
      · exact .inr ((hk c).trans ((effect_dirty i s).trans (hk s.dirty)).symm)

/-! ### Stacks that agree below SP -/

/-- Two stacks of one size with the same entries below index `n`. -/
def AgreeBelow (n : Nat) (q r : List Word) : Prop := q.length = r.length ∧ ∀ k, k < n → q[k]? = r[k]?

theorem AgreeBelow.mono {m n : Nat} {q r : List Word} (h : AgreeBelow n q r) (le : m ≤ n) :
    AgreeBelow m q r :=
  ⟨h.1, fun k hk => h.2 k (hk.trans_le le)⟩

theorem AgreeBelow.push {n : Nat} {q r : List Word} (a : Word) (h : AgreeBelow n q r) :
    AgreeBelow (n + 1) (q.set n a) (r.set n a) := by
  refine ⟨by rw [List.length_set, List.length_set, h.1], fun k hk => ?_⟩
  rw [List.getElem?_set, List.getElem?_set, h.1]
  split
  · rfl
  · exact h.2 k (by omega)

/-- A pop of a nonempty stack reads an entry below SP. -/
theorem AgreeBelow.top {s : State} {q : List Word} (h : AgreeBelow s.sp q s.stack) (hs : s.sp ≠ 0) :
    q.getD (s.sp - 1) 0#16 = s.topEntry := by
  rw [State.topEntry, List.getD_eq_getElem?_getD, List.getD_eq_getElem?_getD, h.2 _ (by omega)]

/-- CALL writes both stacks alike at the old SP, RET lowers SP, and the others leave SP and the entries. -/
theorem AgreeBelow.effect {s : State} {q : List Word} (i : Instr) (h : AgreeBelow s.sp q s.stack) :
    AgreeBelow (i.effect s).sp (i.stackAfter s q) (i.stackAfter s s.stack) := by
  cases i with
  | call nnn => exact h.push _
  | ret => exact h.mono (Nat.sub_le s.sp 1)
  | _ => simpa [Instr.effect, Instr.stackAfter] using h

/-- Settles O23: the one read of the stack is RET's, below SP, and the stacks still agree below the new SP. -/
theorem stepDoesNotReadDeadStackEntries : Obligations.StepDoesNotReadDeadStackEntries := by
  intro s t q hlen hq _ h
  have ha : AgreeBelow s.sp q s.stack := ⟨hlen, hq⟩
  obtain ⟨r, rfl, hu⟩ | ⟨i, hn, rfl, hu⟩ := step_withUnread s.st s.dirty q h
  · exact ⟨_, hu, rfl, ha⟩
  · have hret : i = .ret → q.getD (s.sp - 1) 0#16 = s.topEntry := by
      rintro rfl
      exact ha.top (by simpa [Instr.errorAt] using hn)
    rw [effect_withUnread hret, ← effect_st, ← effect_dirty] at hu
    refine ⟨_, hu, rfl, ?_⟩
    rw [effect_stack]
    exact ha.effect i

end Sys2Proof.Machine
end

section
/-! PROOFS. The frames of the instructions: the writers of each piece of state, and the next PC. An error
writes the run state alone, so each frame is a fact about `effect`. -/

namespace Sys2Proof.Machine

/-! ### What a completed instruction writes -/

/-- A completed instruction writes no general register but the listed ones (R23). -/
theorem effect_reg {i : Instr} (s : State) {r : Reg} (h : i.writesReg r = false) :
    (i.effect s).reg r = s.reg r := by
  cases i with
  | ldImm x nn | addImm x nn | ldReg x y | orReg x y | andReg x y | xorReg x y | rnd x nn | ldVxDt x
  | drw x y n => exact State.setReg_reg_other _ _ (by simpa [Instr.writesReg] using h)
  | addReg x y | sub x y | shr x y | subn x y | shl x y =>
    obtain ⟨hx, hf⟩ : r ≠ x ∧ r ≠ regF := by simpa [Instr.writesReg] using h
    rw [Instr.effect, State.advance_reg, State.setResultThenFlag_reg, if_neg hf, if_neg hx]
  | ldRegs x =>
    have hr : ¬ r.val ≤ x.val := by simpa [Instr.writesReg] using h
    have hx := x.isLt
    rw [Instr.effect, State.advance_reg, State.setRegsFrom_reg (by rw [State.bytesAtI_length]; omega),
      State.bytesAtI_length, if_neg (by omega)]
  | ret | call nnn => rfl
  | _ => simp [Instr.effect]

theorem effect_sp (i : Instr) (s : State) :
    (i.effect s).sp = s.sp ∨ i = .ret ∨ ∃ nnn, i = .call nnn := by
  cases i with
  | ret => exact .inr (.inl rfl)
  | call nnn => exact .inr (.inr ⟨nnn, rfl⟩)
  | _ => exact .inl (by simp [Instr.effect])

theorem effect_dt (i : Instr) (s : State) : (i.effect s).dt = s.dt ∨ ∃ x, i = .ldDtVx x := by
  cases i with
  | ldDtVx x => exact .inr ⟨x, rfl⟩
  | _ => exact .inl (by simp [Instr.effect])

theorem effect_screen (i : Instr) (s : State) :
    (i.effect s).screen = s.screen ∨ i = .cls ∨ ∃ x y n, i = .drw x y n := by
  cases i with
  | cls => exact .inr (.inl rfl)
  | drw x y n => exact .inr (.inr ⟨x, y, n, rfl⟩)
  | _ => exact .inl (by simp [Instr.effect])

theorem effect_cfg (i : Instr) (s : State) : (i.effect s).cfg = s.cfg := by
  cases i <;> simp [Instr.effect]

theorem effect_keys (i : Instr) (s : State) : (i.effect s).keys = s.keys := by
  cases i <;> simp [Instr.effect]

/-- An instruction that completes keeps the run state, but for FX0A, which starts its wait (R206). -/
theorem effect_runState (i : Instr) (s : State) :
    (i.effect s).runState = s.runState ∨ ∃ x, i = .ldVxK x ∧ (i.effect s).runState = .waitingForKey x := by
  cases i with
  | ldVxK x => exact .inr ⟨x, rfl, rfl⟩
  | _ => exact .inl (by simp [Instr.effect])

/-- The next PC of an instruction that completes is the listed one (R27). -/
theorem effect_pc (i : Instr) (s : State) : (i.effect s).pc = i.nextPc s := by
  cases i with
  | seImm x nn | sneImm x nn | seReg x y | sneReg x y | skp x | sknp x =>
    simp only [Instr.effect, State.skipIf_pc, State.keyTest_pc, Instr.nextPc, Instr.skipCondition]
    split <;> simp only [*]
  | ldRegs x => exact congrArg (· + 2#16) (State.setRegsFrom_pc s 0 _)
  | _ => rfl

/-! ### The statements -/

/-- Settles O13, from `effect_reg`. -/
theorem registerWritersAreListed : Obligations.RegisterWritersAreListed := by
  intro i s t r h hw
  obtain ⟨e, -, rfl⟩ | ⟨-, rfl⟩ := exec_cases h
  · rfl
  · exact effect_reg s hw

/-- Settles O15: CALL sets the entry at the old SP, and no other instruction sets one. -/
theorem stackWritersAreListed : Obligations.StackWritersAreListed := by
  intro i s t h
  obtain ⟨e, -, rfl⟩ | ⟨-, rfl⟩ := exec_cases h
  · exact ⟨.inl rfl, .inl rfl⟩
  · refine ⟨effect_sp i s, ?_⟩
    obtain hk | ⟨nnn, rfl⟩ := stackAfter_cases i s
    · exact .inl ((effect_stack i s).trans (hk s.stack))
    · exact .inr ⟨nnn, rfl, fun k hk => List.getElem?_set_ne (Ne.symm hk)⟩

/-- Settles O16, from `effect_dt` and `stAfter_cases`. -/
theorem timerWritersAreListed : Obligations.TimerWritersAreListed := by
  intro i s t h
  obtain ⟨e, -, rfl⟩ | ⟨-, rfl⟩ := exec_cases h
  · exact ⟨.inl rfl, .inl rfl⟩
  · exact ⟨effect_dt i s, (stAfter_cases i s).imp_left fun hk => (effect_st i s).trans (hk s.st)⟩

/-- Settles O17: an instruction keeps the flag, or is one of the two, which set it. -/
theorem displayWritersAreListed : Obligations.DisplayWritersAreListed := by
  intro i s t h
  obtain ⟨e, -, rfl⟩ | ⟨-, rfl⟩ := exec_cases h
  · exact ⟨.inl ⟨rfl, rfl⟩, id⟩
  · rw [effect_dirty]
    obtain hk | ⟨hk, hi⟩ := dirtyAfter_cases i
    · exact ⟨(effect_screen i s).imp_left fun hs => ⟨hs, hk s.dirty⟩, (hk s.dirty).trans⟩
    · exact ⟨.inr hi, fun _ => hk s.dirty⟩

/-- Settles O19, from `effect_keys`, `effect_cfg` and `effect_runState`. -/
theorem keysAndRunStateFrame : Obligations.KeysAndRunStateFrame := by
  intro i s t h
  obtain ⟨e, he, rfl⟩ | ⟨-, rfl⟩ := exec_cases h
  · exact ⟨rfl, rfl, .inr (.inr ⟨e, he, rfl⟩)⟩
  · exact ⟨effect_keys i s, effect_cfg i s, (effect_runState i s).imp_right .inl⟩

/-- Settles O20, from `effect_pc`. -/
theorem nextPcIsAsListed : Obligations.NextPcIsAsListed := by
  intro i s t h
  obtain ⟨e, he, rfl⟩ | ⟨hn, rfl⟩ := exec_cases h
  · rw [he]; rfl
  · rw [hn, effect_pc]; rfl

/-- Settles O33, from `execCall_ok`. -/
theorem callPushesReturnAddress : Obligations.CallPushesReturnAddress := by
  intro s nnn hsp hlen
  refine ⟨_, execCall_ok hsp, ?_, fun k hk => ?_, rfl, ?_, rfl⟩
  · exact List.getElem?_set_self (hlen ▸ hsp)
  · exact List.getElem?_set_ne (Ne.symm hk)
  · have := nnn.isLt
    simp only [BitVec.toNat_setWidth]
    omega

/-- Settles O34, from `execRet_ok`: the entry below SP is the one popped. -/
theorem returnPopsIntoPc : Obligations.ReturnPopsIntoPc := by
  intro s a hsp ha
  have htop : s.topEntry = a := by rw [State.topEntry, List.getD_eq_getElem?_getD, ha]; rfl
  rw [execRet_ok hsp, htop]

end Sys2Proof.Machine
end

section
/-! PROOFS. The invariant: what an erring step and a completed instruction keep of it, and then every step
and every transaction of the host. -/

namespace Sys2Proof.Machine

/-! ### Memory -/

/-- Memory changes only by a store, and a store that completes keeps it canonical (R54, R53). -/
theorem effect_mem_wf {i : Instr} {s : State} (hm : Memory.wf (resetByte s.cfg) s.mem = true)
    (hn : i.errorAt s = none) : Memory.wf (resetByte s.cfg) (i.effect s).mem = true := by
  cases i with
  | ldB x =>
    have hr : ¬ 4095 < s.i.toNat + 2 := by simpa [Instr.errorAt] using hn
    exact Memory.putBytes_wf hm (.inr (by simp only [bcdDigits, List.length_cons, List.length_nil]; omega))
  | stRegs x =>
    have hr : ¬ 4095 < s.i.toNat + x.val := by simpa [Instr.errorAt] using hn
    exact Memory.putBytes_wf hm (.inr (by rw [State.regsUpTo_length]; omega))
  | _ => simpa [Instr.effect] using hm

/-! ### SP and the stack -/

theorem effect_stack_length (i : Instr) (s : State) : (i.effect s).stack.length = s.stack.length := by
  cases i <;> simp [Instr.effect]

/-- CALL pushes PC + 2, and no other instruction writes an entry (R30, R112). -/
theorem mem_effect_stack {i : Instr} {s : State} {a : Word} (h : a ∈ (i.effect s).stack) :
    a ∈ s.stack ∨ a = s.pc + 2#16 := by
  cases i with
  | call nnn => exact List.mem_or_eq_of_mem_set h
  | _ => exact .inl (by simpa [Instr.effect] using h)

theorem effect_sp_le {i : Instr} {s : State} (hs : s.sp ≤ s.cfg.stackCapacity) (hn : i.errorAt s = none) :
    (i.effect s).sp ≤ s.cfg.stackCapacity := by
  cases i with
  | call nnn =>
    have hr : ¬ s.cfg.stackCapacity ≤ s.sp := by simpa [Instr.errorAt] using hn
    exact Nat.succ_le_of_lt (Nat.lt_of_not_le hr)
  | ret => exact (Nat.sub_le s.sp 1).trans hs
  | _ => simpa [Instr.effect] using hs

/-! ### The bound on PC -/

/-- PC + 2 does not wrap where an instruction was fetched (R28). -/
theorem toNat_add_two {p : Word} (h : p.toNat ≤ 4094) : (p + 2#16).toNat = p.toNat + 2 := by
  simp only [BitVec.toNat_add, BitVec.toNat_ofNat]
  omega

/-- PC + 4 does not wrap where an instruction was fetched (R28). -/
theorem toNat_add_four {p : Word} (h : p.toNat ≤ 4094) : (p + 4#16).toNat = p.toNat + 4 := by
  simp only [BitVec.toNat_add, BitVec.toNat_ofNat]
  omega

/-- What a pop gives is an entry of the stack, or 0 past its end (log entry 32). -/
theorem topEntry_toNat_le {s : State} {b : Nat} (h : ∀ a ∈ s.stack, a.toNat ≤ b) : s.topEntry.toNat ≤ b := by
  unfold State.topEntry
  rw [List.getD_eq_getElem?_getD]
  cases hk : s.stack[s.sp - 1]? with
  | none => exact Nat.zero_le b
  | some a => exact h a (List.mem_of_getElem? hk)

/-- The largest next PC is BNNN's, 0xFFF + 0xFF (R28). -/
theorem nextPc_toNat_le {s : State} (i : Instr) (hpc : s.pc.toNat ≤ 4094)
    (hs : ∀ a ∈ s.stack, a.toNat ≤ 0x1000) : (i.nextPc s).toNat ≤ 0x10FE := by
  cases i with
  | ret => exact (topEntry_toNat_le hs).trans (by decide)
  | jp nnn | call nnn =>
    have := nnn.isLt
    simp only [Instr.nextPc, BitVec.toNat_setWidth]
    omega
  | jpV0 nnn =>
    have := nnn.isLt
    have := (s.reg 0).isLt
    simp only [Instr.nextPc, BitVec.toNat_add, BitVec.toNat_setWidth]
    omega
  | ldVxK x => exact hpc.trans (by decide)
  | seImm x nn | sneImm x nn | seReg x y | sneReg x y | skp x | sknp x =>
    simp only [← effect_pc, Instr.effect, State.skipIf_pc, State.keyTest_pc]
    split
    · rw [toNat_add_four hpc]; omega
    · rw [toNat_add_two hpc]; omega
  | _ =>
    simp only [Instr.nextPc, Instr.skipCondition, toNat_add_two hpc]
    omega

/-! ### Error records -/

/-- The address of a failed range check is out of range (R53, R222). -/
theorem errorAt_recordOk {i : Instr} {s : State} {e : CoreError} (h : i.errorAt s = some e) :
    (RunState.halted e).recordOk = true := by
  cases i with
  | ret | call nnn | drw x y n | ldB x | stRegs x | ldRegs x =>
    obtain ⟨-, ⟨⟩⟩ := Option.ite_none_right_eq_some.1 h
    simp [RunState.recordOk]
  | _ => cases h

theorem fetchInstr_error_recordOk {s : State} {e : CoreError} (h : s.fetchInstr = .error e) :
    (RunState.halted e).recordOk = true := by
  obtain ⟨-, hf⟩ | ⟨-, hd, hf⟩ | ⟨-, i, -, hf⟩ := s.fetchInstr_cases
  · obtain rfl : rangeError s.pc.toNat = e := by rw [hf] at h; exact Except.error.inj h
    simp [rangeError, RunState.recordOk]
  · rw [hf] at h
    obtain rfl := Except.error.inj h
    simp [RunState.recordOk, hd]
  · rw [hf] at h; cases h

/-- The bytes of an instruction lie in memory (R93). -/
theorem fetchInstr_ok_pc {s : State} {i : Instr} (h : s.fetchInstr = .ok i) : s.pc.toNat ≤ 4094 := by
  obtain ⟨-, hf⟩ | ⟨hpc, -⟩ | ⟨hpc, -⟩ := s.fetchInstr_cases
  · rw [hf] at h; cases h
  · exact hpc
  · exact hpc

/-! ### The invariant is kept -/

/-- Taking an error writes the record alone, so the record is all there is to check (R224). -/
theorem State.Inv.raise {s : State} {e : CoreError} (hi : s.Inv) (he : (RunState.halted e).recordOk = true) :
    (s.raise e).Inv where
  cfgOk := hi.cfgOk
  memOk := hi.memOk
  stackSize := hi.stackSize
  spBound := hi.spBound
  returnBound := hi.returnBound
  pcBound := hi.pcBound
  waitingPc := fun _ h => by cases h
  recordOk := he

/-- An instruction fetched in a running state and completing keeps the invariant. -/
theorem State.Inv.effect {i : Instr} {s : State} (hi : s.Inv) (hr : s.runState = .running)
    (hpc : s.pc.toNat ≤ 4094) (hn : i.errorAt s = none) : (i.effect s).Inv where
  cfgOk := by rw [effect_cfg]; exact hi.cfgOk
  memOk := by rw [effect_cfg]; exact effect_mem_wf hi.memOk hn
  stackSize := by rw [effect_stack_length, effect_cfg]; exact hi.stackSize
  spBound := by rw [effect_cfg]; exact effect_sp_le hi.spBound hn
  returnBound := fun a ha => by
    obtain ha | rfl := mem_effect_stack ha
    · exact hi.returnBound a ha
    · rw [toNat_add_two hpc]; omega
  pcBound := by rw [effect_pc]; exact nextPc_toNat_le i hpc hi.returnBound
  waitingPc := fun x hx => by
    obtain h | ⟨_, rfl, -⟩ := effect_runState i s
    · rw [h, hr] at hx; cases hx
    · exact hpc
  recordOk := by
    obtain h | ⟨_, -, h⟩ := effect_runState i s <;> rw [h]
    · exact hi.recordOk
    · rfl

/-- The invariant is kept by every step: a waiting step does nothing, an erring one writes a truthful record,
and a completed instruction keeps each clause. -/
theorem State.Inv.step {s t : State} (hi : s.Inv) (h : Machine.step s = .next t) : t.Inv := by
  obtain ⟨_, -, rfl⟩ | ⟨-, e, hf, rfl⟩ | ⟨hr, i, hf, hx⟩ := step_cases h
  · exact hi
  · exact hi.raise (fetchInstr_error_recordOk hf)
  · obtain ⟨e, he, rfl⟩ | ⟨hn, rfl⟩ := exec_cases hx
    · exact hi.raise (errorAt_recordOk he)
    · exact hi.effect hr (fetchInstr_ok_pc hf) hn

/-- Settles O57: the case split of `State.Inv.step`. -/
theorem stepKeepsTheInvariant : Obligations.StepKeepsTheInvariant :=
  fun _ _ hi h => hi.step h

/-! ### The host's transactions -/

/-- The pieces of state the host writes outside a step and a key press are none that the invariant speaks of. -/
theorem State.Inv.hostWrites {s : State} (hi : s.Inv) (dt st : Byte) (dirty : Bool) (keys : Vector Bool 16) :
    ({ s with dt := dt, st := st, dirty := dirty, keys := keys } : State).Inv where
  cfgOk := hi.cfgOk
  memOk := hi.memOk
  stackSize := hi.stackSize
  spBound := hi.spBound
  returnBound := hi.returnBound
  pcBound := hi.pcBound
  waitingPc := hi.waitingPc
  recordOk := hi.recordOk

/-- The press that ends a wait moves PC past the FX0A, whose address is at most 4094 (R208, R209). -/
theorem State.Inv.keyPress {s : State} (hi : s.Inv) (k : Fin 16) : (s.keyPress k).Inv := by
  unfold State.keyPress
  cases hr : s.runState with
  | waitingForKey x =>
    exact {
      cfgOk := hi.cfgOk
      memOk := hi.memOk
      stackSize := hi.stackSize
      spBound := hi.spBound
      returnBound := hi.returnBound
      pcBound := by
        have hpc := hi.waitingPc x hr
        rw [State.setRunState_pc, State.advance_pc, State.setReg_pc, toNat_add_two hpc]
        omega
      waitingPc := fun _ h => by cases h
      recordOk := rfl }
  | running => exact hi
  | halted e => exact hi

/-- A key call writes its key, and a press then is the key-press event (R238, R208). -/
theorem State.Inv.setKey {s t : State} {k : Nat} {pressed : Bool} (hi : s.Inv)
    (h : s.setKey k pressed = some t) : t.Inv := by
  unfold State.setKey at h
  split at h
  · next hk =>
    obtain rfl := Option.some.inj h
    have hw : (s.writeKey ⟨k, hk⟩ pressed).Inv := hi.hostWrites s.dt s.st s.dirty _
    cases pressed with
    | false => exact hw
    | true => exact hw.keyPress ⟨k, hk⟩
  · cases h

theorem State.Inv.stepCall {s : State} (hi : s.Inv) : (Machine.stepCall s).1.Inv := by
  unfold Machine.stepCall
  split
  · next h => exact hi.step h
  · exact hi
  · exact hi

theorem State.Inv.apply {s : State} (o : HostOp) (hi : s.Inv) : (s.apply o).Inv := by
  cases o with
  | step => exact hi.stepCall
  | tickTimers => exact hi.hostWrites _ _ s.dirty s.keys
  | setKey k pressed =>
    change ((s.setKey k pressed).getD s).Inv
    cases h : s.setKey k pressed with
    | none => exact hi
    | some t => exact hi.setKey h
  | clearDirty => exact hi.hostWrites s.dt s.st false s.keys
  | framebuffer | isBeeping | isDirty => exact hi

/-- Settles O58, by induction on the transactions (`State.runOps_keeps`). -/
theorem hostTransactionsKeepTheInvariant : Obligations.HostTransactionsKeepTheInvariant :=
  fun _ ops hi => State.runOps_keeps (fun _ o h => h.apply o) hi ops

end Sys2Proof.Machine
end

section
/-! PROOFS. The reset values, the base case of the invariant, and the host's calls that are one update
each. -/

theorem Sys2Proof.ProgramOrigin.addr_le (o : Sys2Proof.ProgramOrigin) : o.addr ≤ 0x600 := by
  cases o <;> decide

namespace Sys2Proof.Machine

/-- The values of R40, whatever bytes are placed: placing them writes memory alone (R260, R262). -/
theorem State.initial_poke_values (c : Config) (a : Nat) (rom : List Byte) :
    InitialValues c ((State.initial c).poke a rom) where
  regs r := Vector.getElem_replicate r.isLt
  i := rfl
  pc := by cases h : c.programOrigin <;> simp [State.initial, h, ProgramOrigin.addr]
  sp := rfl
  stackSize := List.length_replicate
  stack _ ha := List.eq_of_mem_replicate ha
  dt := rfl
  st := rfl
  screen := Grid.blank_pixel
  dirty := rfl
  keys k := Vector.getElem_replicate k.isLt
  runState := rfl
  cfg := rfl

/-- Settles O52: `new` places the ROM in the initial state, and reset is that state with no ROM. -/
theorem resetValues : Obligations.ResetValues := by
  refine ⟨fun c rom s _ h => ?_, State.initial_poke_values referenceConfig 0 [], rfl,
    List.length_replicate⟩
  unfold State.new at h
  split at h
  · rw [← Except.ok.inj h]
    exact State.initial_poke_values c _ rom
  · cases h

/-- The initial state of every configuration in range meets the invariant. -/
theorem State.initial_inv {c : Config} (hc : c.wf = true) : (State.initial c).Inv where
  cfgOk := hc
  memOk := rfl
  stackSize := List.length_replicate
  spBound := Nat.zero_le _
  returnBound a ha := by rw [List.eq_of_mem_replicate ha]; decide
  pcBound := by
    have hpc : (State.initial c).pc.toNat = c.programOrigin.addr := (State.initial_poke_values c 0 []).pc
    rw [hpc]
    exact c.programOrigin.addr_le.trans (by decide)
  waitingPc _ h := by cases h
  recordOk := rfl

/-- Settles O55: the reference configuration is in range. -/
theorem resetMeetsTheInvariant : Obligations.ResetMeetsTheInvariant :=
  State.initial_inv (by decide)

/-- A press where nothing waits is no event (R208). -/
theorem State.keyPress_of_not_waiting {s : State} (h : ∀ x, s.runState ≠ .waitingForKey x) (k : Fin 16) :
    s.keyPress k = s := by
  unfold State.keyPress
  split
  · next x hx => exact absurd hx (h x)
  · rfl
  · rfl

/-- Settles O49: a release only writes the key, and so does a press without a wait to end. -/
theorem keyCallsOutsideAPress : Obligations.KeyCallsOutsideAPress := by
  refine fun s k p => ⟨fun hk => dif_neg (by omega), fun hk hp => ?_⟩
  rw [State.setKey, dif_pos hk]
  cases p with
  | false => rfl
  | true =>
    have hw : ∀ x, s.runState ≠ .waitingForKey x := by simpa using hp
    rw [if_pos rfl, State.keyPress_of_not_waiting (s := s.writeKey ⟨k, hk⟩ true) hw]
    rfl

/-- The beep output is ST > 0 (R233). -/
theorem State.isBeeping_iff (s : State) : s.isBeeping = true ↔ 0 < s.st.toNat := by
  rw [State.isBeeping, bne_iff_ne, ne_eq, BitVec.toNat_eq, Nat.pos_iff_ne_zero]
  rfl

/-- Settles O59: each clause but the beep output is an equation of the model's definitions. -/
theorem outputsAndClearDirty : Obligations.OutputsAndClearDirty :=
  fun s => ⟨rfl, rfl, Iff.rfl, s.isBeeping_iff, fun _ _ => rfl, rfl, rfl, rfl⟩

end Sys2Proof.Machine
end

section
/-! PROOFS. Memory: the bytes FX33 and FX55 store and the ones every instruction leaves, the registers FX65
loads, and what FX65 and the next fetch see of an FX55. -/

namespace Sys2Proof.Machine

/-! ### The bytes of a store -/

theorem State.poke_peek_stored {s : State} {a k : Nat} {bs : List Byte}
    (hm : Memory.wf (resetByte s.cfg) s.mem = true) (le : a + bs.length ≤ 4096) (hk : k < bs.length) :
    (s.poke a bs).peek (a + k) = bs.getD k 0#8 := by
  rw [State.poke_peek hm (.inr le), if_pos (by omega), Nat.add_sub_cancel_left]

theorem State.poke_peek_outside {s : State} {a b : Nat} {bs : List Byte}
    (hm : Memory.wf (resetByte s.cfg) s.mem = true) (le : a + bs.length ≤ 4096)
    (hb : ¬ (a ≤ b ∧ b < a + bs.length)) : (s.poke a bs).peek b = s.peek b := by
  rw [State.poke_peek hm (.inr le), if_neg hb]

theorem bcdDigits_length (b : Byte) : (bcdDigits b).length = 3 := rfl

/-- No digit is cut by the width of a byte (R163). -/
theorem bcdDigits_toNat (b : Byte) :
    (bcdDigits b).map BitVec.toNat = [b.toNat / 100, b.toNat / 10 % 10, b.toNat % 10] := by
  have hb := b.isLt
  simp only [bcdDigits, List.map_cons, List.map_nil, BitVec.toNat_ofNat, List.cons.injEq, and_true]
  omega

/-- The bytes FX33 stores, as numbers (R163, D21). -/
theorem State.poke_bcdDigits_toNat {s : State} (b : Byte) (hm : Memory.wf (resetByte s.cfg) s.mem = true)
    (hr : s.i.toNat + 2 ≤ 4095) {k : Nat} (hk : k < 3) :
    ((s.poke s.i.toNat (bcdDigits b)).peek (s.i.toNat + k)).toNat =
      [b.toNat / 100, b.toNat / 10 % 10, b.toNat % 10].getD k 0 := by
  rw [State.poke_peek_stored hm (by rw [bcdDigits_length]; omega) hk, ← bcdDigits_toNat]
  exact (List.getD_map _ 0#8 BitVec.toNat).symm

theorem State.poke_regsUpTo_peek {s : State} {x r : Reg} (hm : Memory.wf (resetByte s.cfg) s.mem = true)
    (hr : s.i.toNat + x.val ≤ 4095) (le : r.val ≤ x.val) :
    (s.poke s.i.toNat (s.regsUpTo x)).peek (s.i.toNat + r.val) = s.reg r := by
  have hl := s.regsUpTo_length x
  rw [State.poke_peek_stored hm (by omega) (by omega), State.regsUpTo_getD s le]

/-! ### The frame of memory -/

/-- FX33 and FX55 alone write memory (R54). -/
theorem effect_mem (i : Instr) (s : State) :
    (∃ x, i = .ldB x) ∨ (∃ x, i = .stRegs x) ∨ (i.effect s).mem = s.mem := by
  cases i with
  | ldB x => exact .inl ⟨x, rfl⟩
  | stRegs x => exact .inr (.inl ⟨x, rfl⟩)
  | _ => exact .inr (.inr (by simp [Instr.effect]))

/-- A completed instruction leaves every byte outside its store range (R54). -/
theorem effect_peek {i : Instr} {s : State} {a : Nat} (hm : Memory.wf (resetByte s.cfg) s.mem = true)
    (hn : i.errorAt s = none)
    (ha : ¬ ((i.storeRange s).1 ≤ a ∧ a < (i.storeRange s).1 + (i.storeRange s).2)) :
    (i.effect s).peek a = s.peek a := by
  obtain ⟨x, rfl⟩ | ⟨x, rfl⟩ | he := effect_mem i s
  · have hr : ¬ 4095 < s.i.toNat + 2 := by simpa [Instr.errorAt] using hn
    exact State.poke_peek_outside hm (by rw [bcdDigits_length]; omega) ha
  · have hr : ¬ 4095 < s.i.toNat + x.val := by simpa [Instr.errorAt] using hn
    have hl := s.regsUpTo_length x
    exact State.poke_peek_outside hm (by omega) (by rw [hl]; exact ha)
  · rw [State.peek, State.peek, he, effect_cfg]

/-- Settles O18, from `effect_peek`: an error writes no byte. -/
theorem memoryWritersAreListed : Obligations.MemoryWritersAreListed := by
  intro i s t a hm h ha
  obtain ⟨e, -, rfl⟩ | ⟨hn, rfl⟩ := exec_cases h
  · rfl
  · exact effect_peek hm hn ha

/-! ### FX33, FX55 and FX65 -/

/-- Settles O38: each stored byte is its digit, and the digits put together again are VX. -/
theorem bcdStoresThreeDigits : Obligations.BcdStoresThreeDigits := by
  intro s x hm hr
  have hb := (s.reg x).isLt
  have h0 : ((s.poke s.i.toNat (bcdDigits (s.reg x))).peek s.i.toNat).toNat = (s.reg x).toNat / 100 :=
    State.poke_bcdDigits_toNat _ hm hr (k := 0) (by decide)
  have h1 : ((s.poke s.i.toNat (bcdDigits (s.reg x))).peek (s.i.toNat + 1)).toNat =
      (s.reg x).toNat / 10 % 10 := State.poke_bcdDigits_toNat _ hm hr (by decide)
  have h2 : ((s.poke s.i.toNat (bcdDigits (s.reg x))).peek (s.i.toNat + 2)).toNat =
      (s.reg x).toNat % 10 := State.poke_bcdDigits_toNat _ hm hr (by decide)
  refine ⟨_, execLdB_ok hr, ?_, ?_, ?_, ?_, fun a ha => ?_, rfl, rfl⟩
  · rw [State.advance_peek, State.advance_peek, State.advance_peek, h0, h1, h2]
    omega
  · rw [State.advance_peek, h0]; omega
  · rw [State.advance_peek, h1]; omega
  · rw [State.advance_peek, h2]; omega
  · exact State.poke_peek_outside hm (by rw [bcdDigits_length]; omega) (by rw [bcdDigits_length]; omega)

/-- Settles O39, from what a read of the store gives inside and outside its range. -/
theorem storeRegisters : Obligations.StoreRegisters := by
  intro s x hm hr
  have hl := s.regsUpTo_length x
  exact ⟨_, execStRegs_ok hr, fun r le => State.poke_regsUpTo_peek hm hr le,
    fun a ha => State.poke_peek_outside hm (by omega) (by omega), rfl, rfl⟩

theorem State.bytesAtI_getD (s : State) {n k : Nat} (hk : k < n) :
    (s.bytesAtI n).getD k 0#8 = s.peek (s.i.toNat + k) := by
  rw [List.getD_eq_getElem _ _ (by rwa [State.bytesAtI_length])]
  simp [State.bytesAtI]

/-- Settles O40: the block load writes V0..VX, byte r of the range to Vr. -/
theorem loadRegisters : Obligations.LoadRegisters := by
  intro s x hr
  have hx := x.isLt
  have hl := s.bytesAtI_length (x.val + 1)
  refine ⟨(s.setRegsFrom 0 (s.bytesAtI (x.val + 1))).advance, execLdRegs_ok hr, fun r le => ?_, ?_, ?_,
    fun r nle => ?_⟩
  · rw [State.advance_reg, State.setRegsFrom_reg (by omega), if_pos (by omega), Nat.sub_zero,
      State.bytesAtI_getD s (by omega)]
  · rw [State.advance_pc, State.setRegsFrom_pc]
  · rw [State.setRegsFrom_eq]; rfl
  · rw [State.advance_reg, State.setRegsFrom_reg (by omega), if_neg (by omega)]

/-! ### A store seen by what follows it -/

/-- Settles O41: FX55 leaves I, so the load of O40 reads the bytes stored by O39. -/
theorem storeThenLoadRestoresRegisters : Obligations.StoreThenLoadRestoresRegisters := by
  intro s x hm hr
  obtain ⟨t, ht, hbytes, -, -, heq⟩ := storeRegisters s x hm hr
  have hi : t.i = s.i := by rw [heq]
  refine ⟨t, ht, fun w p => ?_⟩
  obtain ⟨u, hu, hregs, -, -⟩ := loadRegisters { t with v := w, pc := p } x (by rwa [← hi] at hr)
  refine ⟨u, hu, fun r le => ?_⟩
  calc u.reg r = t.peek (t.i.toNat + r.val) := hregs r le
    _ = s.reg r := by rw [hi, hbytes r le]

/-- Where the bytes at PC decode, the fetch gives their instruction (R93, R94). -/
theorem State.fetchInstr_ok {s : State} {i : Instr} (hpc : s.pc.toNat ≤ 4094)
    (hd : decode (s.peek s.pc.toNat ++ s.peek (s.pc.toNat + 1)) = some i) : s.fetchInstr = .ok i := by
  obtain ⟨hgt, -⟩ | ⟨-, hnone, -⟩ | ⟨-, j, hj, hf⟩ := s.fetchInstr_cases
  · omega
  · exact absurd (hnone.symm.trans hd) (by simp)
  · rw [hf, Option.some.inj (hj.symm.trans hd)]

/-- Settles O42: the FX55 leaves PC at I, where V0 and V1 now stand, in run state Running. -/
theorem storeIsSeenByTheNextFetch : Obligations.StoreIsSeenByTheNextFetch := by
  intro s x i hm hrun hx hi hr hd
  obtain ⟨t, ht, hbytes, -, hpc, heq⟩ := storeRegisters s x hm hr
  have hti : t.pc = s.i := hpc.trans hi.symm
  have htrun : t.runState = .running := by rw [heq]; exact hrun
  have h0 : t.peek s.i.toNat = s.reg 0 := hbytes 0 (Nat.zero_le _)
  have h1 : t.peek (s.i.toNat + 1) = s.reg 1 := hbytes 1 hx
  refine ⟨t, ht, step_running_ok htrun (State.fetchInstr_ok ?_ ?_)⟩
  · rw [hti]; omega
  · rw [hti, h0, h1, hd]

end Sys2Proof.Machine
end

section
/-! PROOFS. Encoding (spec 30_encoding.md R73 to R80): the decoder inverts the encoder and is inverted by it,
and the words it refuses are those no row of the opcode map selects. -/

namespace Sys2Proof

/-! ### Decoding an encoded word -/

section EncodedFields

variable (g n : BitVec 4) (x y : Reg) (nn : Byte)

theorem regX_wordXYN : nibbleIndex (opX (wordXYN g x y n)) = x := by
  rw [opX_wordXYN, nibbleIndex_field]

theorem regY_wordXYN : nibbleIndex (opY (wordXYN g x y n)) = y := by
  rw [opY_wordXYN, nibbleIndex_field]

theorem regX_wordXNN : nibbleIndex (opX (wordXNN g x nn)) = x := by
  rw [opX_wordXNN, nibbleIndex_field]

theorem decode_wordXYN_group8 : decode (wordXYN 0x8#4 x y n) = decodeGroup8 n x y := by
  rw [decode_group8 (opGroup_wordXYN _ _ _ _), opN_wordXYN, regX_wordXYN, regY_wordXYN]

theorem decode_wordXNN_groupE : decode (wordXNN 0xE#4 x nn) = decodeGroupE nn x := by
  rw [decode_groupE (opGroup_wordXNN _ _ _), opNN_wordXNN, regX_wordXNN]

theorem decode_wordXNN_groupF : decode (wordXNN 0xF#4 x nn) = decodeGroupF nn x := by
  rw [decode_groupF (opGroup_wordXNN _ _ _), opNN_wordXNN, regX_wordXNN]

end EncodedFields

/-- Settles O1: each pattern of R73 has its group at the top, and its fields read back as the operands. -/
theorem decodeOfEncodeIsIdentity : Obligations.DecodeOfEncodeIsIdentity := by
  intro i
  cases i with
  | cls | ret => decide
  | jp nnn => rw [encode, decode_group1 (opGroup_wordNNN _ _), opNNN_wordNNN]
  | call nnn => rw [encode, decode_group2 (opGroup_wordNNN _ _), opNNN_wordNNN]
  | seImm x nn => rw [encode, decode_group3 (opGroup_wordXNN _ _ _), regX_wordXNN, opNN_wordXNN]
  | sneImm x nn => rw [encode, decode_group4 (opGroup_wordXNN _ _ _), regX_wordXNN, opNN_wordXNN]
  | seReg x y =>
    rw [encode, decode_group5 (opGroup_wordXYN _ _ _ _), if_pos (opN_wordXYN _ _ _ _), regX_wordXYN,
      regY_wordXYN]
  | ldImm x nn => rw [encode, decode_group6 (opGroup_wordXNN _ _ _), regX_wordXNN, opNN_wordXNN]
  | addImm x nn => rw [encode, decode_group7 (opGroup_wordXNN _ _ _), regX_wordXNN, opNN_wordXNN]
  | ldReg x y | orReg x y | andReg x y | xorReg x y | addReg x y | sub x y | shr x y | subn x y | shl x y =>
    exact decode_wordXYN_group8 _ x y
  | sneReg x y =>
    rw [encode, decode_group9 (opGroup_wordXYN _ _ _ _), if_pos (opN_wordXYN _ _ _ _), regX_wordXYN,
      regY_wordXYN]
  | ldI nnn => rw [encode, decode_groupA (opGroup_wordNNN _ _), opNNN_wordNNN]
  | jpV0 nnn => rw [encode, decode_groupB (opGroup_wordNNN _ _), opNNN_wordNNN]
  | rnd x nn => rw [encode, decode_groupC (opGroup_wordXNN _ _ _), regX_wordXNN, opNN_wordXNN]
  | drw x y n =>
    rw [encode, decode_groupD (opGroup_wordXYN _ _ _ _), regX_wordXYN, regY_wordXYN, opN_wordXYN,
      nibbleIndex_field]
  | skp x | sknp x => exact decode_wordXNN_groupE x _
  | ldVxDt x | ldVxK x | ldDtVx x | ldStVx x | addI x | ldF x | ldB x | stRegs x | ldRegs x =>
    exact decode_wordXNN_groupF x _

/-! ### Encoding a decoded word -/

section DecodedFields

variable {w : Word} {g : BitVec 4} (h : opGroup w = g)

include h

theorem wordXYN_of_group : wordXYN g (nibbleIndex (opX w)) (nibbleIndex (opY w)) (opN w) = w :=
  h ▸ wordXYN_of_fields w

theorem wordXNN_of_group : wordXNN g (nibbleIndex (opX w)) (opNN w) = w :=
  h ▸ wordXNN_of_fields w

theorem wordNNN_of_group : wordNNN g (opNNN w) = w :=
  h ▸ wordNNN_of_fields w

end DecodedFields

/-- One test of a dispatch: the instruction it answers, or what the later tests answer. -/
theorem encode_of_ite {c : Prop} [Decidable c] {a i : Instr} {o : Option Instr} {w : Word}
    (ha : c → encode a = w) (ho : o = some i → encode i = w) (h : (if c then some a else o) = some i) :
    encode i = w := by
  split at h
  case isTrue hc => exact Option.some.inj h ▸ ha hc
  case isFalse => exact ho h

theorem encode_of_decodeGroup0 {w : Word} {i : Instr} (h : decodeGroup0 w = some i) : encode i = w := by
  unfold decodeGroup0 at h
  repeat refine encode_of_ite (fun e => by subst e; rfl) (fun h => ?_) h
  cases h

theorem encode_of_decodeGroup8 {n : BitVec 4} {x y : Reg} {i : Instr} (h : decodeGroup8 n x y = some i) :
    encode i = wordXYN 0x8#4 x y n := by
  unfold decodeGroup8 at h
  repeat refine encode_of_ite (fun e => by subst e; rfl) (fun h => ?_) h
  cases h

theorem encode_of_decodeGroupE {nn : Byte} {x : Reg} {i : Instr} (h : decodeGroupE nn x = some i) :
    encode i = wordXNN 0xE#4 x nn := by
  unfold decodeGroupE at h
  repeat refine encode_of_ite (fun e => by subst e; rfl) (fun h => ?_) h
  cases h

theorem encode_of_decodeGroupF {nn : Byte} {x : Reg} {i : Instr} (h : decodeGroupF nn x = some i) :
    encode i = wordXNN 0xF#4 x nn := by
  unfold decodeGroupF at h
  repeat refine encode_of_ite (fun e => by subst e; rfl) (fun h => ?_) h
  cases h

/-- Settles O2, group by group: the instruction holds every field its group's word has. -/
theorem encodeOfDecodeIsIdentity : Obligations.EncodeOfDecodeIsIdentity := by
  intro w i h
  obtain g | g | g | g | g | g | g | g | g | g | g | g | g | g | g | g := nibble_cases (opGroup w)
  · exact encode_of_decodeGroup0 ((decode_group0 g).symm.trans h)
  · cases (decode_group1 g).symm.trans h; exact wordNNN_of_group g
  · cases (decode_group2 g).symm.trans h; exact wordNNN_of_group g
  · cases (decode_group3 g).symm.trans h; exact wordXNN_of_group g
  · cases (decode_group4 g).symm.trans h; exact wordXNN_of_group g
  · obtain ⟨hn, e⟩ := Option.ite_none_right_eq_some.mp ((decode_group5 g).symm.trans h)
    cases e; rw [encode, ← hn, wordXYN_of_group g]
  · cases (decode_group6 g).symm.trans h; exact wordXNN_of_group g
  · cases (decode_group7 g).symm.trans h; exact wordXNN_of_group g
  · rw [encode_of_decodeGroup8 ((decode_group8 g).symm.trans h), wordXYN_of_group g]
  · obtain ⟨hn, e⟩ := Option.ite_none_right_eq_some.mp ((decode_group9 g).symm.trans h)
    cases e; rw [encode, ← hn, wordXYN_of_group g]
  · cases (decode_groupA g).symm.trans h; exact wordNNN_of_group g
  · cases (decode_groupB g).symm.trans h; exact wordNNN_of_group g
  · cases (decode_groupC g).symm.trans h; exact wordXNN_of_group g
  · cases (decode_groupD g).symm.trans h
    rw [encode, nibbleField_index, wordXYN_of_group g]
  · rw [encode_of_decodeGroupE ((decode_groupE g).symm.trans h), wordXNN_of_group g]
  · rw [encode_of_decodeGroupF ((decode_groupF g).symm.trans h), wordXNN_of_group g]

/-! ### The illegal words -/

theorem ite_some_eq_none_iff {c : Prop} [Decidable c] {a : Instr} {o : Option Instr} :
    (if c then some a else o) = none ↔ ¬ c ∧ o = none := by
  split <;> simp [*]

theorem decodeGroup0_eq_none_iff (w : Word) :
    decodeGroup0 w = none ↔ w ≠ 0x00E0#16 ∧ w ≠ 0x00EE#16 := by
  simp only [decodeGroup0, ite_some_eq_none_iff, and_true, ne_eq]

theorem decodeGroup8_eq_none_iff (n : BitVec 4) (x y : Reg) :
    decodeGroup8 n x y = none ↔ n ∈ [0x8#4, 0x9#4, 0xA#4, 0xB#4, 0xC#4, 0xD#4, 0xF#4] := by
  obtain rfl | rfl | rfl | rfl | rfl | rfl | rfl | rfl | rfl | rfl | rfl | rfl | rfl | rfl | rfl | rfl :=
    nibble_cases n <;> simp [decodeGroup8]

theorem decodeGroupE_eq_none_iff (nn : Byte) (x : Reg) :
    decodeGroupE nn x = none ↔ nn ∉ [0x9E#8, 0xA1#8] := by
  simp only [decodeGroupE, ite_some_eq_none_iff, and_true, List.mem_cons, List.not_mem_nil, or_false,
    not_or]

theorem decodeGroupF_eq_none_iff (nn : Byte) (x : Reg) :
    decodeGroupF nn x = none ↔
      nn ∉ [0x07#8, 0x0A#8, 0x15#8, 0x18#8, 0x1E#8, 0x29#8, 0x33#8, 0x55#8, 0x65#8] := by
  simp only [decodeGroupF, ite_some_eq_none_iff, and_true, List.mem_cons, List.not_mem_nil, or_false,
    not_or]

/-- Settles O4: ten groups take every word, and each of the other six refuses by its own test. -/
theorem illegalWordsByGroup : Obligations.IllegalWordsByGroup := by
  intro w
  obtain g | g | g | g | g | g | g | g | g | g | g | g | g | g | g | g := nibble_cases (opGroup w)
  · simp [decode_group0 g, g, decodeGroup0_eq_none_iff]
  · simp [decode_group1 g, g]
  · simp [decode_group2 g, g]
  · simp [decode_group3 g, g]
  · simp [decode_group4 g, g]
  · simp [decode_group5 g, g]
  · simp [decode_group6 g, g]
  · simp [decode_group7 g, g]
  · simp [decode_group8 g, g, decodeGroup8_eq_none_iff]
  · simp [decode_group9 g, g]
  · simp [decode_groupA g, g]
  · simp [decode_groupB g, g]
  · simp [decode_groupC g, g]
  · simp [decode_groupD g, g]
  · simp [decode_groupE g, g, decodeGroupE_eq_none_iff]
  · simp [decode_groupF g, g, decodeGroupF_eq_none_iff]

/-! ### The rows of the opcode map -/

/-- Two rows whose patterns agree wherever both masks look are one row. -/
theorem row_eq_of_patterns_agree : ∀ r ∈ opcodeTable, ∀ r' ∈ opcodeTable,
    r.pattern &&& r'.mask = r'.pattern &&& r.mask → r = r' := by
  decide

theorem opcodeTable_mnemonics_nodup : (opcodeTable.map (·.mnemonic)).Nodup := by
  decide

theorem row_eq_of_selects {r r' : OpcodeRow} {w : Word} (hr : r ∈ opcodeTable) (hr' : r' ∈ opcodeTable)
    (h : r.selects w = true) (h' : r'.selects w = true) : r = r' := by
  rw [OpcodeRow.selects, beq_iff_eq] at h h'
  refine row_eq_of_patterns_agree r hr r' hr' ?_
  rw [← h, ← h', BitVec.and_assoc, BitVec.and_assoc, BitVec.and_comm r.mask]

theorem row_eq_of_mnemonic {r r' : OpcodeRow} (hr : r ∈ opcodeTable) (hr' : r' ∈ opcodeTable)
    (h : r.mnemonic = r'.mnemonic) : r = r' :=
  List.inj_on_of_nodup_map opcodeTable_mnemonics_nodup hr hr' h

open Laws.EncodesToItsRow in
/-- The encoding of every instruction is selected by the row of its mnemonic. -/
theorem encodesToItsRow : ∀ i, Statement i
  | .cls => cls
  | .ret => ret
  | .jp nnn => jp nnn
  | .call nnn => call nnn
  | .seImm x nn => seImm x nn
  | .sneImm x nn => sneImm x nn
  | .seReg x y => seReg x y
  | .ldImm x nn => ldImm x nn
  | .addImm x nn => addImm x nn
  | .ldReg x y => ldReg x y
  | .orReg x y => orReg x y
  | .andReg x y => andReg x y
  | .xorReg x y => xorReg x y
  | .addReg x y => addReg x y
  | .sub x y => sub x y
  | .shr x y => shr x y
  | .subn x y => subn x y
  | .shl x y => shl x y
  | .sneReg x y => sneReg x y
  | .ldI nnn => ldI nnn
  | .jpV0 nnn => jpV0 nnn
  | .rnd x nn => rnd x nn
  | .drw x y n => drw x y n
  | .skp x => skp x
  | .sknp x => sknp x
  | .ldVxDt x => ldVxDt x
  | .ldVxK x => ldVxK x
  | .ldDtVx x => ldDtVx x
  | .ldStVx x => ldStVx x
  | .addI x => addI x
  | .ldF x => ldF x
  | .ldB x => ldB x
  | .stRegs x => stRegs x
  | .ldRegs x => ldRegs x

theorem decode_selected_by_own_row {w : Word} {i : Instr} (h : decode w = some i) :
    ∃ r ∈ opcodeTable, r.mnemonic = i.mnemonic ∧ r.selects w = true :=
  encodeOfDecodeIsIdentity w i h ▸ encodesToItsRow i

/-! ### Every row's words decode -/

theorem decode_ne_none_of_group {w : Word}
    (h : opGroup w ∉ [0x0#4, 0x5#4, 0x8#4, 0x9#4, 0xE#4, 0xF#4]) : decode w ≠ none := by
  rw [Ne, illegalWordsByGroup w]
  simp only [List.mem_cons, List.not_mem_nil, or_false, not_or] at h
  obtain ⟨h0, h5, h8, h9, hE, hF⟩ := h
  simp [h0, h5, h8, h9, hE, hF]

section Agree

variable {w v : Word} (hg : opGroup w = opGroup v)

include hg

/-- Groups 5, 8 and 9 look at N alone (R76, R77). -/
theorem decode_eq_none_iff_of_group_n (hn : opN w = opN v) (h : opGroup v ∈ [0x5#4, 0x8#4, 0x9#4]) :
    decode w = none ↔ decode v = none := by
  rw [illegalWordsByGroup w, illegalWordsByGroup v, hg, hn]
  simp only [List.mem_cons, List.not_mem_nil, or_false] at h
  obtain h | h | h := h <;> simp [h]

/-- Groups E and F look at NN alone (R78, R79). -/
theorem decode_eq_none_iff_of_group_nn (hn : opNN w = opNN v) (h : opGroup v ∈ [0xE#4, 0xF#4]) :
    decode w = none ↔ decode v = none := by
  rw [illegalWordsByGroup w, illegalWordsByGroup v, hg, hn]
  simp only [List.mem_cons, List.not_mem_nil, or_false] at h
  obtain h | h := h <;> simp [h]

end Agree

/-- A row's mask shows the decoder all that its group looks at. -/
def OpcodeRow.MaskFitsGroup (r : OpcodeRow) : Prop :=
  r.mask = 0xFFFF#16 ∨
  (r.mask = 0xF000#16 ∧ r.pattern &&& 0x0FFF#16 = 0#16 ∧
    opGroup r.pattern ∉ [0x0#4, 0x5#4, 0x8#4, 0x9#4, 0xE#4, 0xF#4]) ∨
  (r.mask = 0xF00F#16 ∧ r.pattern &&& 0x0FF0#16 = 0#16 ∧ opGroup r.pattern ∈ [0x5#4, 0x8#4, 0x9#4]) ∨
  (r.mask = 0xF0FF#16 ∧ r.pattern &&& 0x0F00#16 = 0#16 ∧ opGroup r.pattern ∈ [0xE#4, 0xF#4])

theorem opcodeTable_maskFitsGroup : ∀ r ∈ opcodeTable, r.MaskFitsGroup := by
  unfold OpcodeRow.MaskFitsGroup
  decide

theorem opcodeTable_pattern_decodes : ∀ r ∈ opcodeTable, decode r.pattern ≠ none := by
  decide

theorem decode_ne_none_of_selects {r : OpcodeRow} {w : Word} (hr : r ∈ opcodeTable)
    (h : r.selects w = true) : decode w ≠ none := by
  have hp := opcodeTable_pattern_decodes r hr
  rw [OpcodeRow.selects, beq_iff_eq] at h
  obtain hm | ⟨hm, hz, hg⟩ | ⟨hm, hz, hg⟩ | ⟨hm, hz, hg⟩ := opcodeTable_maskFitsGroup r hr <;>
    rw [hm] at h
  · rwa [(and_ones_eq_iff _ _).mp h]
  · exact decode_ne_none_of_group ((and_group_eq_iff _ _ hz).mp h ▸ hg)
  · obtain ⟨e, en⟩ := (and_group_n_eq_iff _ _ hz).mp h
    exact mt (decode_eq_none_iff_of_group_n e en hg).mp hp
  · obtain ⟨e, en⟩ := (and_group_nn_eq_iff _ _ hz).mp h
    exact mt (decode_eq_none_iff_of_group_nn e en hg).mp hp

theorem isSome_decode_eq_legalWord (w : Word) : (decode w).isSome = legalWord w := by
  rw [Bool.eq_iff_iff, legalWord, List.any_eq_true]
  constructor
  · intro h
    obtain ⟨i, hi⟩ := Option.isSome_iff_exists.mp h
    obtain ⟨r, hr, -, hs⟩ := decode_selected_by_own_row hi
    exact ⟨r, hr, hs⟩
  · rintro ⟨r, hr, hs⟩
    exact Option.isSome_iff_ne_none.mpr (decode_ne_none_of_selects hr hs)

theorem selects_eq_of_decode {w : Word} {i : Instr} {r : OpcodeRow} (h : decode w = some i)
    (hr : r ∈ opcodeTable) : r.selects w = decide (r.mnemonic = i.mnemonic) := by
  obtain ⟨own, hown, hname, hsel⟩ := decode_selected_by_own_row h
  rw [Bool.eq_iff_iff, decide_eq_true_iff]
  constructor
  · intro hs
    rw [row_eq_of_selects hr hown hs hsel, hname]
  · intro hn
    rwa [row_eq_of_mnemonic hr hown (hn.trans hname.symm)]

/-- Settles O3: a decoded word has its instruction's row, and no other by `row_eq_of_selects`. -/
theorem decoderAcceptsExactlyTheOpcodeMap : Obligations.DecoderAcceptsExactlyTheOpcodeMap :=
  fun w => ⟨isSome_decode_eq_legalWord w, fun _ h _ hr => selects_eq_of_decode h hr⟩

/-- Settles O5, by running the decoder on each word. -/
theorem sampleWordsDecode : Obligations.SampleWordsDecode := by
  unfold Obligations.SampleWordsDecode
  decide

end Sys2Proof
end

section
/-! PROOFS. The cycle (spec 40_execution_cycle.md R90 to R95): what the fetch gives in each of its cases, what
a step and a call of step do in each run state, and a wait under transactions without a key press. -/

namespace Sys2Proof.Machine

/-! ### The fetch, case by case -/

theorem State.fetchInstr_out_of_bounds {s : State} (hpc : 4095 < s.pc.toNat + 1) :
    s.fetchInstr = .error (.memoryOutOfBounds (max s.pc.toNat 4096)) := by
  obtain ⟨-, hf⟩ | ⟨le, -⟩ | ⟨le, -⟩ := s.fetchInstr_cases
  · exact hf
  · omega
  · omega

theorem State.fetchInstr_unknown {s : State} (hpc : s.pc.toNat + 1 ≤ 4095) (hd : decode s.wordAtPc = none) :
    s.fetchInstr = .error (.unknownOpcode s.wordAtPc s.pc) := by
  obtain ⟨gt, -⟩ | ⟨-, -, hf⟩ | ⟨-, i, hi, -⟩ := s.fetchInstr_cases
  · omega
  · exact hf
  · exact absurd (hd.symm.trans hi) (by simp)

/-- Settles O6: the fetch gives the decoded instruction. -/
theorem stepRunsTheDecodedInstruction : Obligations.StepRunsTheDecodedInstruction :=
  fun _ _ hr hpc hd => step_running_ok hr (State.fetchInstr_ok (Nat.le_of_succ_le_succ hpc) hd)

/-! ### The outcome of a step and of a call of step -/

/-- A step answers the recorded error as a fault, or a next state: `exec` is total (`exec_eq`). -/
theorem step_outcome (s : State) :
    (∃ e, s.runState = .halted e ∧ step s = .fault (.halted e)) ∨
    ((∀ e, s.runState ≠ .halted e) ∧ ∃ t, step s = .next t) := by
  cases hr : s.runState with
  | halted e => exact .inl ⟨e, rfl, step_halted hr⟩
  | waitingForKey x => exact .inr ⟨by simp, s, step_waiting hr⟩
  | running =>
    refine .inr ⟨by simp, ?_⟩
    cases hf : s.fetchInstr with
    | error e => exact ⟨_, step_running_error hr hf⟩
    | ok i => exact ⟨_, (step_running_ok hr hf).trans (exec_eq i s)⟩

/-- Settles O10, by the two outcomes of `step_outcome`. -/
theorem stepFaultsOnlyWhenHalted : Obligations.StepFaultsOnlyWhenHalted := by
  intro s
  obtain ⟨e, hr, hs⟩ | ⟨hr, t, hs⟩ := step_outcome s
  · simp [hs, hr]
  · simp [hs, hr]

theorem stepCall_halted {s : State} {e : CoreError} (h : s.runState = .halted e) :
    stepCall s = (s, .error e) := by
  simp only [stepCall, step_halted h]

theorem stepCall_waiting {s : State} {x : Reg} (h : s.runState = .waitingForKey x) :
    stepCall s = (s, .ok ()) := by
  rw [stepCall_next (step_waiting h), State.stepReturn_ok (by simp [h])]

theorem stepCall_running_error {s : State} {e : CoreError} (h : s.runState = .running)
    (hf : s.fetchInstr = .error e) : stepCall s = (s.raise e, .error e) := by
  rw [stepCall_next (step_running_error h hf), State.stepReturn_halted (s.raise_runState e)]

/-- Settles O7: a call in each run state and, when running, in each case of the fetch; an executed instruction
leaves a state (`exec_eq`), whose run state decides what the call returns. -/
theorem stepCallFollowsRunState : Obligations.StepCallFollowsRunState := by
  refine fun s => ⟨fun _ => stepCall_halted, fun _ => stepCall_waiting,
    fun hr hpc => stepCall_running_error hr (State.fetchInstr_out_of_bounds hpc),
    fun hr hpc hd => stepCall_running_error hr (State.fetchInstr_unknown hpc hd), fun i hr hpc hd => ?_⟩
  have hx := exec_eq i s
  have hcall := stepCall_next ((stepRunsTheDecodedInstruction s i hr hpc hd).trans hx)
  refine ⟨_, hx, fun e he => ?_, fun hne => ?_⟩
  · rw [hcall, State.stepReturn_halted he]
  · rw [hcall, State.stepReturn_ok hne]

/-! ### Where no step executes, the host writes its own pieces alone -/

/-- `t` is `s` but for the pieces the host writes outside a step and a key press: the timers, the keys and the
dirty flag. -/
def State.HostFrame (s t : State) : Prop :=
  t = { s with dt := t.dt, st := t.st, keys := t.keys, dirty := t.dirty }

theorem State.HostFrame.trans {s t u : State} (h : s.HostFrame t) (h' : t.HostFrame u) : s.HostFrame u := by
  unfold State.HostFrame at h h'
  rw [h] at h'
  exact h'

theorem State.HostFrame.runState_eq {s t : State} (h : s.HostFrame t) : t.runState = s.runState := by
  unfold State.HostFrame at h
  rw [h]

/-- One transaction on a halted or waiting instance, other than the press that ends a wait (R91, R92, R235,
R238). -/
theorem State.apply_hostFrame {s : State} {o : HostOp} (hr : s.runState ≠ .running)
    (ho : ∀ k, k < 16 → o = .setKey k true → ∀ x, s.runState ≠ .waitingForKey x) :
    s.HostFrame (s.apply o) := by
  cases o with
  | step =>
    have hstay : (stepCall s).1 = s := by
      cases h : s.runState with
      | running => exact absurd h hr
      | waitingForKey x => rw [stepCall_waiting h]
      | halted e => rw [stepCall_halted h]
    rw [State.apply, hstay]
    rfl
  | setKey k p =>
    rw [State.apply]
    obtain ⟨hrefused, hwrite⟩ := keyCallsOutsideAPress s k p
    obtain hk | hk := Nat.lt_or_ge k 16
    · have hp : p = false ∨ ∀ x, s.runState ≠ .waitingForKey x := by
        cases p with
        | false => exact .inl rfl
        | true => exact .inr (ho k hk rfl)
      rw [hwrite hk hp]
      rfl
    · rw [hrefused hk]
      rfl
  | tickTimers | clearDirty | framebuffer | isBeeping | isDirty => rfl

/-- Any number of such transactions: each leaves the run state, so the next finds the same one. -/
theorem State.runOps_hostFrame {s : State} {ops : List HostOp} (hr : s.runState ≠ .running)
    (ho : ∀ k, k < 16 → .setKey k true ∈ ops → ∀ x, s.runState ≠ .waitingForKey x) :
    s.HostFrame (s.runOps ops) := by
  induction ops generalizing s with
  | nil => rfl
  | cons o ops ih =>
    have hframe : s.HostFrame (s.apply o) :=
      State.apply_hostFrame hr fun k hk heq => ho k hk (heq ▸ List.mem_cons_self)
    rw [State.runOps_cons]
    refine hframe.trans (ih ?_ fun k hk hmem => ?_)
    · rwa [hframe.runState_eq]
    · rw [hframe.runState_eq]
      exact ho k hk (List.mem_cons_of_mem o hmem)

/-- Settles O12: no transaction of the list is a press, so each is one of `State.runOps_hostFrame`. -/
theorem waitEndsOnlyByKeyPress : Obligations.WaitEndsOnlyByKeyPress :=
  fun _ _ _ hw hpress => State.runOps_hostFrame (by simp [hw]) fun k hk hmem => absurd hmem (hpress k hk)

end Sys2Proof.Machine
end

section
/-! PROOFS. Control flow (spec 41_control_flow.md): the register skips, and the targets of the two jumps as
numbers. -/

namespace Sys2Proof.Machine

/-! ### Skips -/

/-- A skip on a Boolean test, with the condition it tests as a proposition (R13). -/
theorem State.skipIf_of_iff {c : Bool} {p : Prop} [Decidable p] (s : State) (h : c = true ↔ p) :
    s.skipIf c = { s with pc := if p then s.pc + 4#16 else s.pc + 2#16 } := by
  rw [State.skipIf_eq, if_congr h rfl rfl]

/-- Settles O31: each of the four is a skip on its own test, so `State.skipIf_of_iff` gives its state. -/
theorem registerSkips : Obligations.RegisterSkips := fun s _ _ _ =>
  ⟨congrArg _ (s.skipIf_of_iff beq_iff_eq), congrArg _ (s.skipIf_of_iff bne_iff_ne),
    congrArg _ (s.skipIf_of_iff beq_iff_eq), congrArg _ (s.skipIf_of_iff bne_iff_ne)⟩

/-! ### Jump targets -/

/-- BNNN's sum is at most 0xFFF + 0xFF, so it does not wrap (R117). -/
theorem State.offsetTarget_toNat (s : State) (nnn : Addr12) :
    (s.offsetTarget nnn).toNat = nnn.toNat + (s.reg 0).toNat := by
  have hn := nnn.isLt
  have hv := (s.reg 0).isLt
  simp only [State.offsetTarget, BitVec.toNat_add, BitVec.toNat_setWidth]
  omega

/-- Settles O32: both are a `State.jump`, which writes PC alone, to a target that is the number asked for. -/
theorem jumpTargets : Obligations.JumpTargets := fun s nnn =>
  ⟨⟨s.jump (zext16 nnn), rfl, BitVec.toNat_setWidth_of_le (by decide), rfl⟩,
    ⟨s.jump (s.offsetTarget nnn), rfl, s.offsetTarget_toNat nnn, rfl⟩⟩

end Sys2Proof.Machine
end

section
/-! PROOFS. Register and arithmetic instructions (spec 42_alu.md). Each one either writes VX alone, or writes
VX and then VF; what is left is the value written, as a number or bit by bit. -/

namespace Sys2Proof.Machine

/-! ### The two shapes of a register instruction -/

section Shapes

variable (s : State) (x : Reg) (b f : Byte)

theorem State.setReg_advance_onlyRegs : OnlyRegs s (s.setReg x b).advance (· = x) :=
  ⟨rfl, fun _ hr => s.setReg_reg_other b hr⟩

theorem State.setResultThenFlag_advance_onlyRegs :
    OnlyRegs s (s.setResultThenFlag x b f).advance (fun r => r = x ∨ r = regF) :=
  ⟨rfl, fun r hr => by
    obtain ⟨hx, hf⟩ := not_or.mp hr
    rw [State.advance_reg, State.setResultThenFlag_reg, if_neg hf, if_neg hx]⟩

/-- VF is written last, so it holds the flag whatever X is (R131; log entry 31). -/
@[simp] theorem State.setResultThenFlag_reg_flag : (s.setResultThenFlag x b f).reg regF = f := by
  rw [State.setResultThenFlag_reg, if_pos rfl]

theorem State.setResultThenFlag_reg_result {x : Reg} (hx : x ≠ regF) :
    (s.setResultThenFlag x b f).reg x = b := by
  rw [State.setResultThenFlag_reg, if_neg hx, if_pos rfl]

end Shapes

/-! ### Flags and operands as numbers -/

theorem flagByte_carryOut (a b : Byte) :
    flagByte (carryOut a b) = if a.toNat + b.toNat > 255 then 1#8 else 0#8 := by
  simp only [flagByte, carryOut, decide_eq_true_eq]

theorem flagByte_noBorrow (a b : Byte) :
    flagByte (noBorrow a b) = if b.toNat > a.toNat then 0#8 else 1#8 := by
  simp only [flagByte, noBorrow, decide_eq_true_eq, ite_not]

theorem bitOutRight_toNat (v : Byte) : (bitOutRight v).toNat = v.toNat % 2 :=
  Nat.and_one_is_mod v.toNat

theorem bitOutLeft_toNat (v : Byte) : (bitOutLeft v).toNat = v.toNat / 128 :=
  Nat.shiftRight_eq_div_pow v.toNat 7

/-- The difference mod 256, with the 256 added before the subtraction (R130). -/
theorem byte_sub_toNat (a b : Byte) : (a - b).toNat = (a.toNat + 256 - b.toNat) % 256 := by
  have hb := b.isLt
  rw [BitVec.toNat_sub]
  omega

theorem byte_shiftLeft_one_toNat (v : Byte) : (v <<< 1).toNat = 2 * v.toNat % 256 := by
  rw [BitVec.toNat_shiftLeft, Nat.shiftLeft_eq, Nat.mul_comm]

theorem byte_ushiftRight_one_toNat (v : Byte) : (v >>> 1).toNat = v.toNat / 2 :=
  Nat.shiftRight_eq_div_pow v.toNat 1

/-! ### The statements -/

/-- Settles O24: all three write VX alone. -/
theorem loadAddImmediateAndCopy : Obligations.LoadAddImmediateAndCopy := by
  intro s x y nn
  refine ⟨⟨_, rfl, s.setReg_reg_same x nn, rfl, s.setReg_advance_onlyRegs x _⟩,
    ⟨_, rfl, ?_, rfl, s.setReg_advance_onlyRegs x _⟩,
    ⟨_, rfl, s.setReg_reg_same x (s.reg y), rfl, s.setReg_advance_onlyRegs x _⟩⟩
  rw [State.advance_reg, State.setReg_reg_same, BitVec.toNat_add]

/-- Settles O25: all three write VX alone, and the bits are those of the word operation. -/
theorem logicInstructions : Obligations.LogicInstructions := by
  intro s x y
  refine ⟨⟨_, rfl, rfl, s.setReg_advance_onlyRegs x _, fun k => ?_⟩,
    ⟨_, rfl, rfl, s.setReg_advance_onlyRegs x _, fun k => ?_⟩,
    ⟨_, rfl, rfl, s.setReg_advance_onlyRegs x _, fun k => ?_⟩⟩
  · rw [State.advance_reg, State.setReg_reg_same, BitVec.getLsbD_or]
  · rw [State.advance_reg, State.setReg_reg_same, BitVec.getLsbD_and]
  · rw [State.advance_reg, State.setReg_reg_same, BitVec.getLsbD_xor]

/-- Settles O26, from `flagByte_carryOut`. -/
theorem addRegistersWithCarry : Obligations.AddRegistersWithCarry := by
  intro s x y
  refine ⟨_, rfl, ?_, fun hx => ?_, rfl, s.setResultThenFlag_advance_onlyRegs x _ _⟩
  · rw [State.advance_reg, State.setResultThenFlag_reg_flag, flagByte_carryOut]
  · rw [State.advance_reg, State.setResultThenFlag_reg_result s _ _ hx, BitVec.toNat_add]

/-- 8XY5 and 8XY7 are one subtraction, with the operands in either order (R139, R141). -/
theorem State.subtraction_then_noBorrow (s : State) (x : Reg) (a b : Byte) :
    ∃ t, (.next (s.setResultThenFlag x (a - b) (flagByte (noBorrow a b))).advance : Result) = .next t ∧
      t.reg regF = (if b.toNat > a.toNat then 0#8 else 1#8) ∧
      (x ≠ regF → (t.reg x).toNat = (a.toNat + 256 - b.toNat) % 256) ∧
      t.pc = s.pc + 2#16 ∧ OnlyRegs s t (fun r => r = x ∨ r = regF) := by
  refine ⟨_, rfl, ?_, fun hx => ?_, rfl, s.setResultThenFlag_advance_onlyRegs x _ _⟩
  · rw [State.advance_reg, State.setResultThenFlag_reg_flag, flagByte_noBorrow]
  · rw [State.advance_reg, State.setResultThenFlag_reg_result s _ _ hx, byte_sub_toNat]

/-- Settles O27: the subtraction VX - VY. -/
theorem subtractWithNotBorrow : Obligations.SubtractWithNotBorrow :=
  fun s x y => s.subtraction_then_noBorrow x (s.reg x) (s.reg y)

/-- Settles O28: the subtraction VY - VX. -/
theorem reverseSubtractWithNotBorrow : Obligations.ReverseSubtractWithNotBorrow :=
  fun s x y => s.subtraction_then_noBorrow x (s.reg y) (s.reg x)

/-- Settles O29: for either shift source, `v` is the operand the model shifts. -/
theorem shiftsByOneBit : Obligations.ShiftsByOneBit := by
  intro s x y v hv
  obtain rfl : v = (s.shiftOperand x y).toNat := by
    rw [hv, State.shiftOperand]
    cases s.cfg.shiftSource <;> rfl
  refine ⟨⟨_, rfl, ?_, fun hx => ?_, rfl, s.setResultThenFlag_advance_onlyRegs x _ _⟩,
    ⟨_, rfl, ?_, fun hx => ?_, rfl, s.setResultThenFlag_advance_onlyRegs x _ _⟩⟩
  · rw [State.advance_reg, State.setResultThenFlag_reg_flag, bitOutRight_toNat]
  · rw [State.advance_reg, State.setResultThenFlag_reg_result s _ _ hx, byte_ushiftRight_one_toNat]
  · rw [State.advance_reg, State.setResultThenFlag_reg_flag, bitOutLeft_toNat]
  · rw [State.advance_reg, State.setResultThenFlag_reg_result s _ _ hx, byte_shiftLeft_one_toNat]

/-- Settles O30: the draw is counted, and VX takes the drawn byte AND NN. -/
theorem randomByteIsMasked : Obligations.RandomByteIsMasked := by
  intro s x nn
  have hx : (s.countDraw.setReg x (s.randomByte &&& nn)).advance.reg x = s.randomByte &&& nn := by
    rw [State.advance_reg, State.setReg_reg_same]
  refine ⟨_, rfl, fun k => ?_, fun hn => ?_, rfl, fun r hr => s.countDraw.setReg_reg_other _ hr, rfl⟩
  · rw [hx, BitVec.getLsbD_and, State.randomByte]
  · rw [hx, hn, BitVec.and_zero]

end Sys2Proof.Machine
end

section
/-! PROOFS. The index register (spec 43_index_memory.md): each of ANNN, FX1E and FX29 writes I and advances, so
what is left is the address written, as a number. -/

namespace Sys2Proof.Machine

/-- The masked low nibble is a residue mod 16 (R162). -/
theorem byte_and_lowNibble_toNat (b : Byte) : (b &&& 0x0F#8).toNat = b.toNat % 16 :=
  Nat.and_two_pow_sub_one_eq_mod b.toNat 4

/-- The sum mod 65536 of I and an extended byte (R161, D16). -/
theorem word_add_zext16_toNat (w : Word) (b : Byte) :
    (w + zext16 b).toNat = (w.toNat + b.toNat) % 65536 := by
  rw [BitVec.toNat_add, BitVec.toNat_setWidth_of_le (by decide)]

/-- A font within the reserved range (R6) puts every glyph at an address that fits in I (R162). -/
theorem glyphAddress_toNat {c : Config} (h : c.fontBase + 80 ≤ 0x200) (b : Byte) :
    (glyphAddress c b).toNat = c.fontBase + 5 * (b.toNat % 16) := by
  have hfit : c.fontBase + 5 * (b.toNat % 16) < 2 ^ 16 := by omega
  rw [glyphAddress, byte_and_lowNibble_toNat, BitVec.toNat_ofNat, Nat.mod_eq_of_lt hfit]

/-- Settles O36: NNN fits in I as it is. -/
theorem loadIndex : Obligations.LoadIndex := fun s nnn =>
  ⟨(s.setI (zext16 nnn)).advance, rfl, BitVec.toNat_setWidth_of_le (by decide), rfl, rfl⟩

/-- Settles O37: the sum is taken in 16 bits, and the glyph's address does not wrap. -/
theorem indexArithmetic : Obligations.IndexArithmetic := fun s x =>
  ⟨⟨(s.setI (s.i + zext16 (s.reg x))).advance, rfl, word_add_zext16_toNat s.i (s.reg x), rfl, rfl⟩,
    fun hfont => ⟨(s.setI (glyphAddress s.cfg (s.reg x))).advance, rfl,
      glyphAddress_toNat hfont (s.reg x), rfl, rfl⟩⟩

end Sys2Proof.Machine
end

section
/-! PROOFS. The display (spec 44_display.md): DXYN is one plot, which toggles the covered pixels and notes an
erased one, so two of the same plot cancel. -/

namespace Sys2Proof.Machine

/-! ### The plot of one sprite -/

/-- The plot of DXYN in terms of the coordinate registers, whose values it takes mod 32 and mod 64 (R181). -/
theorem State.plotSprite_spec (s : State) (x y : Reg) {bytes : List Byte} (le : bytes.length ≤ 32) :
    (∀ py px, (s.plotSprite x y bytes).grid.pixel py px ≠ s.screen.pixel py px ↔
      SpriteCovers bytes (s.reg y).toNat (s.reg x).toNat py px) ∧
    ((s.plotSprite x y bytes).collision = true ↔
      ∃ py px, SpriteCovers bytes (s.reg y).toNat (s.reg x).toNat py px ∧ s.screen.pixel py px = true) := by
  obtain ⟨grid, collision⟩ := Plot.rows_spec ⟨s.screen, false⟩ (s.startRow y) (s.startColumn x) le
  simp only [State.startRow, State.startColumn, spriteCovers_mod, Bool.false_eq_true, false_or]
    at grid collision
  exact ⟨grid, collision⟩

theorem flagByte_eq_one_or_zero (c : Bool) : flagByte c = 1#8 ∨ flagByte c = 0#8 := by
  cases c
  · exact .inr rfl
  · exact .inl rfl

/-- Settles O44: the sprite has at most 15 rows, so `State.plotSprite_spec` gives its pixels and its
collision; VF is written after the screen, whatever the coordinate registers are. -/
theorem drawIsPointwiseXor : Obligations.DrawIsPointwiseXor := by
  rintro s x y n bytes hn rfl
  obtain ⟨grid, collision⟩ := s.plotSprite_spec x y (bytes := s.bytesAtI n.val)
    (by rw [State.bytesAtI_length]; omega)
  refine ⟨_, execDrw_ok hn, grid, ?_, ?_, fun r hr => State.setReg_reg_other _ _ hr, rfl, rfl, rfl⟩
  · rw [State.advance_reg, State.setReg_reg_same, flagByte_eq_one]
    exact collision
  · rw [State.advance_reg, State.setReg_reg_same]
    exact flagByte_eq_one_or_zero _

/-! ### The same sprite drawn twice -/

/-- Toggling one set of pixels twice restores the grid (R185). -/
theorem Grid.eq_of_toggled_twice {g h k : Grid} {covered : Fin 32 → Fin 64 → Prop}
    (first : ∀ y x, h.pixel y x ≠ g.pixel y x ↔ covered y x)
    (second : ∀ y x, k.pixel y x ≠ h.pixel y x ↔ covered y x) : k = g := by
  refine Grid.ext fun y x => ?_
  by_cases hc : covered y x
  · rw [Bool.eq_not_of_ne ((second y x).mpr hc), Bool.eq_not_of_ne ((first y x).mpr hc), Bool.not_not]
  · rw [not_ne_iff.mp (mt (second y x).mp hc), not_ne_iff.mp (mt (first y x).mp hc)]

/-- Settles O45: the first draw leaves I, memory and both coordinates, so the second is O44's draw of the same
sprite; a covered pixel is on between the two exactly when it was off before. -/
theorem drawTwiceRestoresTheScreen : Obligations.DrawTwiceRestoresTheScreen := by
  intro s x y n bytes hx hy hn hb
  obtain ⟨t, ht, first, -, -, hreg, -, -, hframe⟩ := drawIsPointwiseXor s x y n bytes hn hb
  have hi : t.i = s.i := by rw [hframe]
  have hpeek : t.peek = s.peek := by rw [hframe]; rfl
  obtain ⟨u, hu, second, hflag, -⟩ :=
    drawIsPointwiseXor t x y n bytes (by rwa [hi]) (by rwa [hi, hpeek])
  rw [hreg x hx, hreg y hy] at second hflag
  refine ⟨t, u, ht, hu, Grid.eq_of_toggled_twice first second, hflag.trans ?_⟩
  refine exists_congr fun py => exists_congr fun px => and_congr_right fun hc => ?_
  rw [Bool.eq_not_of_ne ((first py px).mpr hc), Bool.not_eq_true']

end Sys2Proof.Machine
end

section
/-! PROOFS. Keys and timers (spec 45_keys_timers.md): the key skips as a skip on the key test, the writes of the
timer instructions, and FX0A's wait, which steps keep and a key press ends. -/

namespace Sys2Proof.Machine

/-! ### Key skips -/

/-- A skip after a draw goes either way, and writes PC and the count of draws alone (D22; log entry 3). -/
theorem State.countDraw_skipIf (s : State) (c : Bool) :
    ((s.countDraw.skipIf c).pc = s.pc + 4#16 ∨ (s.countDraw.skipIf c).pc = s.pc + 2#16) ∧
      s.countDraw.skipIf c = { s with pc := (s.countDraw.skipIf c).pc, draws := s.draws + 1 } := by
  cases c with
  | false => exact ⟨.inr rfl, rfl⟩
  | true => exact ⟨.inl rfl, rfl⟩

/-- Settles O46: VX names a key, whose state the skip tests (`State.keyTest_real`), or the answer is drawn
(`State.keyTest_none`). -/
theorem keySkips : Obligations.KeySkips := by
  refine fun s x => ⟨fun k hk => ⟨?_, ?_⟩, fun hx => ⟨?_, ?_⟩⟩
  · rw [exec, execSkp, State.keyTest_real hk, s.skipIf_of_iff Iff.rfl]
  · rw [exec, execSknp, State.keyTest_real hk, s.skipIf_of_iff (Bool.not_eq_true' _).to_iff]
  · rw [exec, execSkp, State.keyTest_none hx]
    exact ⟨_, rfl, s.countDraw_skipIf _⟩
  · rw [exec, execSknp, State.keyTest_none hx]
    exact ⟨_, rfl, s.countDraw_skipIf _⟩

/-! ### Timer instructions -/

/-- Settles O47: each is one write and an advance; a sound timer of 1 is 0 after a tick. -/
theorem timerInstructions : Obligations.TimerInstructions := by
  refine fun s x => ⟨⟨_, rfl, s.setReg_reg_same x s.dt, rfl, s.setReg_advance_onlyRegs x s.dt⟩,
    ⟨_, rfl, rfl, rfl⟩, ⟨_, rfl, rfl, rfl, bne_iff_ne, fun hone => ?_⟩⟩
  rw [State.isBeeping, State.tickTimers_st, State.advance_st, State.setSt_st, hone]
  rfl

/-! ### The wait for a key -/

/-- A transaction that changes nothing changes nothing any number of times. -/
theorem State.runOps_replicate_of_apply_eq {s : State} {o : HostOp} (h : s.apply o = s) (n : Nat) :
    s.runOps (List.replicate n o) = s := by
  induction n with
  | zero => rfl
  | succ n ih => rw [List.replicate_succ, State.runOps_cons, h, ih]

/-- The press of a key writes it and is the key-press event (R238, R208). -/
theorem State.setKey_press (s : State) (k : Fin 16) :
    s.setKey k.val true = some ((s.writeKey k true).keyPress k) :=
  dif_pos k.isLt

/-- The key-press event that ends a wait (R208, R209). -/
theorem State.keyPress_of_waiting {s : State} {x : Reg} (h : s.runState = .waitingForKey x) (k : Fin 16) :
    s.keyPress k = (s.setReg x (BitVec.ofNat 8 k.val)).advance.setRunState .running := by
  rw [State.keyPress, h]

/-- Settles O48: steps of a waiting instance leave it, and the press is `State.keyPress_of_waiting`. -/
theorem keyWaitThenPress : Obligations.KeyWaitThenPress := by
  intro s x k n
  have hsteps : (s.setRunState (.waitingForKey x)).apply .step = s.setRunState (.waitingForKey x) := by
    rw [State.apply, stepCall_waiting (x := x) rfl]
  have hpress := ((s.setRunState (.waitingForKey x)).setKey_press k).trans
    (congrArg some (State.keyPress_of_waiting (x := x) rfl k))
  refine ⟨_, _, rfl, rfl, State.runOps_replicate_of_apply_eq hsteps n, hpress, ?_, fun r hr => ?_,
    rfl, rfl, ?_, fun j hj => ?_, rfl⟩
  · rw [State.setRunState_reg, State.advance_reg, State.setReg_reg_same, BitVec.toNat_ofNat]
    omega
  · exact State.setReg_reg_other _ _ hr
  · exact Vector.getElem_set_self k.isLt
  · exact Vector.getElem_set_ne k.isLt j.isLt fun h => hj (Fin.ext h.symm)

end Sys2Proof.Machine
end

section
/-! PROOFS. Exceptions and the host's boundary (spec 60_exceptions.md R220 to R240): the error a running step
takes, the finality of Halted(e), ticks, and a framebuffer read after 00E0. -/

namespace Sys2Proof.Machine

/-! ### An instruction completes or takes its listed error -/

/-- Settles O21: `exec_eq` gives both answers, and `effect_runState` the run state of a completed instruction. -/
theorem instructionCompletesOrTakesItsError : Obligations.InstructionCompletesOrTakesItsError := by
  refine fun i s => ⟨fun e he => ?_, fun hn => ⟨i.effect s, ?_, ?_⟩⟩
  · rw [exec_eq, he]; rfl
  · rw [exec_eq, hn]; rfl
  · split
    case h_1 x => rfl
    case h_2 hne => exact (effect_runState i s).resolve_right fun ⟨x, hi, _⟩ => hne x hi

/-! ### The error of a step, in the order of the checks -/

theorem State.stepError_out_of_bounds {s : State} (hpc : 4095 < s.pc.toNat + 1) :
    s.stepError = some (.memoryOutOfBounds (max s.pc.toNat 4096)) :=
  if_pos hpc

theorem State.stepError_unknown {s : State} (hpc : s.pc.toNat + 1 ≤ 4095) (hd : decode s.wordAtPc = none) :
    s.stepError = some (.unknownOpcode s.wordAtPc s.pc) := by
  rw [State.stepError, if_neg (Nat.not_lt.2 hpc), hd]

theorem State.stepError_decoded {s : State} {i : Instr} (hpc : s.pc.toNat + 1 ≤ 4095)
    (hd : decode s.wordAtPc = some i) : s.stepError = i.errorAt s := by
  rw [State.stepError, if_neg (Nat.not_lt.2 hpc), hd]

/-- A step of a running instance takes the error of `State.stepError`, or leaves the effect of an instruction
where there is none (R99, R224). -/
theorem step_running_cases {s : State} (hr : s.runState = .running) :
    (∃ e, s.stepError = some e ∧ step s = .next (s.raise e)) ∨
    (s.stepError = none ∧ ∃ i : Instr, step s = .next (i.effect s)) := by
  obtain ⟨hpc, hf⟩ | ⟨hpc, hd, hf⟩ | ⟨hpc, i, hd, hf⟩ := s.fetchInstr_cases
  · exact .inl ⟨_, State.stepError_out_of_bounds (Nat.succ_lt_succ hpc), step_running_error hr hf⟩
  · exact .inl ⟨_, State.stepError_unknown (Nat.succ_le_succ hpc) hd, step_running_error hr hf⟩
  · have hx := (step_running_ok hr hf).trans (exec_eq i s)
    rw [State.stepError_decoded (Nat.succ_le_succ hpc) hd]
    cases he : i.errorAt s with
    | some e => exact .inl ⟨e, rfl, by rw [hx, he]; rfl⟩
    | none => exact .inr ⟨rfl, i, by rw [hx, he]; rfl⟩

/-- No completed instruction of a running instance halts it: only an error does (R224). -/
theorem effect_not_halted {s : State} (i : Instr) (hr : s.runState = .running) (e : CoreError) :
    (i.effect s).runState ≠ .halted e := by
  obtain h | ⟨x, -, h⟩ := effect_runState i s
  · simp [h, hr]
  · simp [h]

/-- Settles O9: the two cases of `step_running_cases`, the second of which does not halt. -/
theorem stepHaltsExactlyOnListedCauses : Obligations.StepHaltsExactlyOnListedCauses := by
  intro s e hr
  obtain ⟨e', he, hs⟩ | ⟨hn, i, hs⟩ := step_running_cases hr
  · simp [he, hs]
  · simp [hn, hs, effect_not_halted i hr e]

/-! ### Halted is final -/

/-- Settles O11: the host writes its own pieces alone (`State.runOps_hostFrame`), so the run state is kept. -/
theorem haltedIsForEver : Obligations.HaltedIsForEver := by
  intro s e ops hh
  have hframe : s.HostFrame (s.runOps ops) := State.runOps_hostFrame (by simp [hh]) (by simp [hh])
  exact ⟨congrArg Prod.snd (stepCall_halted (hframe.runState_eq.trans hh)), hframe⟩

/-! ### Ticks -/

theorem tickTimer_toNat (b : Byte) : (tickTimer b).toNat = b.toNat - 1 := by
  rw [tickTimer]
  split
  case isTrue hpos => exact BitVec.toNat_sub_of_le hpos
  case isFalse hzero => omega

/-- Settles O50, from `tickTimer_toNat`. -/
theorem tickDecrementsEachTimer : Obligations.TickDecrementsEachTimer :=
  fun s => ⟨tickTimer_toNat s.dt, tickTimer_toNat s.st, rfl⟩

/-- Settles O51, by induction on the number of ticks: the first takes one from each timer and nothing else, in
every run state. -/
theorem repeatedTicksStopAtZero : Obligations.RepeatedTicksStopAtZero := by
  rintro s n _ rfl
  induction n generalizing s with
  | zero => exact ⟨rfl, rfl, rfl⟩
  | succ n ih =>
    obtain ⟨hdt, hst, hrest⟩ := ih s.tickTimers
    obtain ⟨hdt₁, hst₁, -⟩ := tickDecrementsEachTimer s
    rw [List.replicate_succ, State.runOps_cons, State.apply]
    exact ⟨by omega, by omega, hrest⟩

/-! ### A framebuffer read after 00E0 -/

/-- Settles O43: the framebuffer read is of the blank grid that 00E0 writes. -/
theorem clearScreen : Obligations.ClearScreen :=
  fun s => ⟨(s.setScreen Grid.blank).advance, rfl, Grid.blank_pixel, rfl, rfl, rfl⟩

end Sys2Proof.Machine
end

section
/-! PROOFS. `new` (spec 70_reset_and_hazards.md R260 to R262): which ROMs it accepts, that placing the ROM keeps
the invariant, and the bytes of the instance it makes. -/

/-- Every origin lies above the reserved range, where the font is (R6, R56). -/
theorem Sys2Proof.ProgramOrigin.le_addr (o : Sys2Proof.ProgramOrigin) : 0x200 ≤ o.addr := by
  cases o <;> decide

namespace Sys2Proof

theorem Config.wf_iff {c : Config} :
    c.wf = true ↔
      (12 ≤ c.stackCapacity ∧ c.stackCapacity ≤ 16) ∧ c.fontBase + 80 ≤ 0x200 ∧ c.fontData.length = 80 := by
  simp only [Config.wf, Config.capacityOk, Config.fontBaseOk, Config.fontDataOk, Bool.and_eq_true,
    decide_eq_true_eq, and_assoc]

end Sys2Proof

namespace Sys2Proof.Machine

/-! ### What `new` answers -/

theorem State.new_ok {c : Config} {rom : List Byte} (h : rom.length ≤ romCapacity c) :
    State.new c rom = .ok ((State.initial c).poke c.programOrigin.addr rom) :=
  if_pos h

theorem State.new_error {c : Config} {rom : List Byte} (h : romCapacity c < rom.length) :
    State.new c rom = .error (.romTooLarge rom.length (romCapacity c)) :=
  if_neg (Nat.not_le.2 h)

/-- Everything `new` can do: the initial state with the ROM placed, or RomTooLarge (R260, R261). -/
theorem State.new_cases (c : Config) (rom : List Byte) :
    (rom.length ≤ romCapacity c ∧
      State.new c rom = .ok ((State.initial c).poke c.programOrigin.addr rom)) ∨
    (romCapacity c < rom.length ∧ State.new c rom = .error (.romTooLarge rom.length (romCapacity c))) :=
  (le_or_gt rom.length (romCapacity c)).imp (fun h => ⟨h, State.new_ok h⟩) (fun h => ⟨h, State.new_error h⟩)

/-- An accepted ROM lies below the end of memory. -/
theorem rom_end_le {c : Config} {rom : List Byte} (h : rom.length ≤ romCapacity c) :
    c.programOrigin.addr + rom.length ≤ 4096 := by
  have horigin := c.programOrigin.addr_le
  rw [romCapacity] at h
  omega

/-- Settles O54: of the two answers of `State.new_cases`, the one that is an error. -/
theorem newRejectsExactlyLargeRoms : Obligations.NewRejectsExactlyLargeRoms := by
  intro c rom e
  change _ ↔ romCapacity c < rom.length ∧ e = .romTooLarge rom.length (romCapacity c)
  obtain ⟨hfits, hnew⟩ | ⟨hlarge, hnew⟩ := State.new_cases c rom
  · simp [hnew, Nat.not_lt.2 hfits]
  · simp [hnew, hlarge, eq_comm]

/-! ### The invariant -/

/-- Bytes stored within memory keep it canonical, and nothing else is written. -/
theorem State.Inv.poke {s : State} (hi : s.Inv) {a : Nat} {bs : List Byte} (le : a + bs.length ≤ 4096) :
    (s.poke a bs).Inv where
  cfgOk := hi.cfgOk
  memOk := Memory.putBytes_wf hi.memOk (.inr le)
  stackSize := hi.stackSize
  spBound := hi.spBound
  returnBound := hi.returnBound
  pcBound := hi.pcBound
  waitingPc := hi.waitingPc
  recordOk := hi.recordOk

/-- Settles O56: the initial state meets the invariant, and so does that state with the ROM placed. -/
theorem newMeetsTheInvariant : Obligations.NewMeetsTheInvariant := by
  intro c rom s hc h
  obtain ⟨hfits, hnew⟩ | ⟨-, hnew⟩ := State.new_cases c rom
  · obtain rfl := Except.ok.inj (hnew.symm.trans h)
    exact (State.initial_inv hc).poke (rom_end_le hfits)
  · cases hnew.symm.trans h

/-! ### The bytes of a new instance -/

theorem some_getD_eq_getElem? {bs : List Byte} {j : Nat} (hj : j < bs.length) :
    some (bs.getD j 0#8) = bs[j]? := by
  rw [List.getD_eq_getElem _ _ hj, List.getElem?_eq_getElem hj]

/-- A font byte, at an address that no ROM byte is placed at (R262). -/
theorem resetByte_font {c : Config} (hfont : c.fontData.length = 80) {j : Nat} (hj : j < 80) :
    some (resetByte c (c.fontBase + j)) = c.fontData[j]? := by
  have hrange : c.fontBase ≤ c.fontBase + j ∧ c.fontBase + j < c.fontBase + 80 := by omega
  rw [resetByte, if_pos hrange, Nat.add_sub_cancel_left]
  exact some_getD_eq_getElem? (hfont ▸ hj)

theorem resetByte_outside_font {c : Config} {a : Nat} (ha : ¬ (c.fontBase ≤ a ∧ a < c.fontBase + 80)) :
    resetByte c a = 0#8 :=
  if_neg ha

/-- Settles O53: inside the ROM's range a new instance reads the ROM, outside it the reset byte, and the font
lies below every origin. -/
theorem newInstanceMemory : Obligations.NewInstanceMemory := by
  intro c rom hc hlen
  have hmem : Memory.wf (resetByte (State.initial c).cfg) (State.initial c).mem = true :=
    (State.initial_inv hc).memOk
  have hend : c.programOrigin.addr + rom.length ≤ 4096 := rom_end_le hlen
  obtain ⟨-, hfontEnd, hfont⟩ := Config.wf_iff.1 hc
  have horigin := c.programOrigin.le_addr
  refine ⟨_, State.new_ok hlen, fun j hj => ?rom, fun j hj => ?font, fun a hrom ha => ?zero,
    (State.initial_poke_values c _ rom).pc, rfl⟩
  case rom =>
    rw [State.poke_peek_stored hmem hend hj]
    exact some_getD_eq_getElem? hj
  case font =>
    rw [State.poke_peek_outside hmem hend (by omega)]
    exact resetByte_font hfont hj
  case zero =>
    rw [State.poke_peek_outside hmem hend hrom]
    exact resetByte_outside_font ha

end Sys2Proof.Machine
end

section
/-! PROOFS. Across instructions: the writers of I (spec 10_state.md R25), the precision of a fatal error
(60_exceptions.md R224), and a CALL with the RET that answers it (90_conflicts.md C6). -/

namespace Sys2Proof.Machine

theorem effect_i (i : Instr) (s : State) :
    (i.effect s).i = s.i ∨ (∃ nnn, i = .ldI nnn) ∨ (∃ x, i = .addI x) ∨ ∃ x, i = .ldF x := by
  cases i with
  | ldI nnn => exact .inr (.inl ⟨nnn, rfl⟩)
  | addI x => exact .inr (.inr (.inl ⟨x, rfl⟩))
  | ldF x => exact .inr (.inr (.inr ⟨x, rfl⟩))
  | _ => exact .inl (by simp [Instr.effect])

/-- Settles O14, from `effect_i`. -/
theorem indexWritersAreListed : Obligations.IndexWritersAreListed := by
  intro i s t h
  obtain ⟨e, -, rfl⟩ | ⟨-, rfl⟩ := exec_cases h
  · exact .inl rfl
  · exact effect_i i s

/-- Settles O8: of the steps of a live instance, only one that raises an error halts it. -/
theorem fatalErrorsArePrecise : Obligations.FatalErrorsArePrecise := by
  intro s t e hlive hstep hhalted
  cases hr : s.runState with
  | halted e' => simp [State.live, hr] at hlive
  | waitingForKey x =>
    obtain rfl := Host.Outcome.next.inj ((step_waiting hr).symm.trans hstep)
    simp [hr] at hhalted
  | running =>
    obtain ⟨e', -, hraise⟩ | ⟨-, i, heffect⟩ := step_running_cases hr
    · obtain rfl := Host.Outcome.next.inj (hraise.symm.trans hstep)
      obtain rfl := RunState.halted.inj hhalted
      rfl
    · obtain rfl := Host.Outcome.next.inj (heffect.symm.trans hstep)
      exact absurd hhalted (effect_not_halted i hr e)

/-- Settles O35: the entry below the SP that the CALL leaves is its return address, and RET pops that entry. -/
theorem callThenReturnResumes : Obligations.CallThenReturnResumes := by
  intro s nnn hsp hlen
  obtain ⟨t, hcall, hentry, -, htsp, -⟩ := callPushesReturnAddress s nnn hsp hlen
  refine ⟨t, hcall, fun u hstack husp => ?_⟩
  have hpop : u.sp - 1 = s.sp := by omega
  have htop : u.stack[u.sp - 1]? = some (s.pc + 2#16) := by rw [hpop, hstack, hentry]
  exact ⟨_, returnPopsIntoPc u _ (by omega) htop, rfl, hpop, rfl⟩

end Sys2Proof.Machine
end
